-- ==== Sys2Proof/Word.lean ====
section
/-! DEFINITION. The bit-vector types of the block's values: spec/10_state.md rules R20 to R38,
with the widths fixed by spec/00_scope.md rule R6 and spec/92_eei_decisions.md D5, D28, D29. -/

namespace Sys2Proof

/-- One input, response or payload byte (R61), and one stored received Word (R67). -/
abbrev Byte := BitVec 8

/-- One transmit Word: the payload in bits 7..0, its parity in bit 8 (R66). -/
abbrev TxWord := BitVec 9

/-- An edge count, a latched pulse count or a threshold: CNT_WIDTH = 16 bits (R6, D5). -/
abbrev Count := BitVec 16

/-- The transmit remaining-tick counter: TXREM_WIDTH = 16 bits (R6, D29). -/
abbrev TickCount := BitVec 16

/-- The position of a bit within a Word: 4 bits (R28). -/
abbrev BitIndex := BitVec 4

/-- A word index or a published length: 8 bits (R29, R32). -/
abbrev WordIndex := BitVec 8

/-- A transmit bit cursor or bit length: 12 bits (R36, R37). -/
abbrev BitCursor := BitVec 12

end Sys2Proof
end

