-- ==== Sys2Proof/Config.lean ====
section
/-! DEFINITION. The configuration record of spec/00_scope.md rule R6, its constraints, the refusal
of every other record (R7), the example configuration EX (R8), and the hardware's own
configuration, whose every value is OPEN. -/

namespace Sys2Proof

/-- The parameters of R6. CNT_WIDTH and TXREM_WIDTH are fixed at 16 and are the widths of
`Count` and `TickCount`. -/
structure Cfg where
  /-- MAX_WORDLEN: the capacity of every word buffer, in words. -/
  maxWordlen : Nat
  /-- STARTBIT_MIN_LEN: the minimum pulse count of a valid start bit. -/
  startbitMinLen : Nat
  /-- BIT_MIN_LEN: the minimum valid pulse width of any bit. -/
  bitMinLen : Nat
  /-- BIT_ONE_DIV_NUM: the numerator of the threshold divisor. -/
  bitOneDivNum : Nat
  /-- BIT_ONE_DIV_DEN: the denominator of the threshold divisor. -/
  bitOneDivDen : Nat
  /-- ONE_PULSENUM: the tick count loaded for a "1" burst. -/
  onePulsenum : Nat
  /-- ZERO_PULSENUM: the tick count loaded for a "0" burst. -/
  zeroPulsenum : Nat
  /-- STARTBIT_PULSENUM: the tick count loaded for the start burst. -/
  startbitPulsenum : Nat
  /-- PAUSE_PULSENUM: the tick count loaded for a pause. -/
  pausePulsenum : Nat
  /-- T_BIT: the bit-timeout duration in RXTICKs. -/
  tBit : Nat
  /-- T_FRAME: the frame-timeout duration in RXTICKs. -/
  tFrame : Nat
  /-- CRC8: the checksum over a byte sequence, a total function and nothing more (R81, D20). -/
  crc8 : List Byte → Byte

/-- The constraint column of R6. -/
abbrev Cfg.WF (c : Cfg) : Prop :=
  (2 ≤ c.maxWordlen ∧ c.maxWordlen ≤ 256) ∧
  c.startbitMinLen < 65536 ∧ c.bitMinLen < 65536 ∧
  (1 ≤ c.bitOneDivDen ∧ c.bitOneDivDen ≤ c.bitOneDivNum) ∧
  (c.onePulsenum < c.zeroPulsenum ∧ c.zeroPulsenum < 65536) ∧
  c.startbitPulsenum < 65536 ∧ c.pausePulsenum < 65536 ∧
  (1 ≤ c.tBit ∧ c.tBit < c.tFrame ∧ c.tFrame ≤ 65535)

/-- One shift of CRC8_EX (R82). -/
def crcExShift (c : Byte) : Byte :=
  if c.getLsbD 7 then (c <<< 1) ^^^ 0x07 else c <<< 1

/-- One byte of CRC8_EX: eight shifts (R82). -/
def crcExByte (c b : Byte) : Byte :=
  (List.range 8).foldl (fun a _ => crcExShift a) (c ^^^ b)

/-- CRC8_EX, the checksum of configuration EX only; no claim about the hardware's (R82). -/
def crc8Ex (bytes : List Byte) : Byte := bytes.foldl crcExByte 0

/-- The example configuration EX of R8, for the spec's test vectors only. -/
def Cfg.ex : Cfg where
  maxWordlen := 4
  startbitMinLen := 40
  bitMinLen := 4
  bitOneDivNum := 2
  bitOneDivDen := 1
  onePulsenum := 9
  zeroPulsenum := 29
  startbitPulsenum := 49
  pausePulsenum := 9
  tBit := 5
  tFrame := 120
  crc8 := crc8Ex

/-- A configuration of this hardware: a record that meets R6's constraints (R7). The field
defaults show only that there is one, which `opaque` asks for. -/
structure HwCfg where
  cfg : Cfg := Cfg.ex
  wf : cfg.WF := by decide
  deriving Inhabited

/-- "A configuration violating a constraint of rule R6 is not a configuration of this hardware;
the model refuses it before the first step" (R7). -/
def Cfg.accept (c : Cfg) : Option HwCfg := if h : c.WF then some ⟨c, h⟩ else none

/-- The hardware's configuration: fixed (R174), and OPEN in every value (R6, D20, D21). It has no
body, so nothing in Lean can evaluate it and every theorem holds for each legal configuration. -/
opaque Config.hw : HwCfg

/-- The record the machine runs with. -/
abbrev Config.cfg : Cfg := Config.hw.cfg

end Sys2Proof
end

