-- ==== Sys2Proof/Syntax.lean ====
section
/-! DEFINITION. The twelve operations of the block: spec/30_encoding.md rule R60, one constructor
for each row of spec/opcode_table.json. -/

namespace Sys2Proof

/-- The operations (R60). Ten are inputs; `bitTimeout` and `frameTimeout` are internal handler
actions that only RXTICK starts. The length operand of SEND is the length of its payload (R63). -/
inductive Instr where
  /-- EDGE: one falling edge of the received carrier (R90). -/
  | edge
  /-- RXTICK: one tick of the receive timers' time base (R91). -/
  | rxTick
  /-- TXTICK: one tick of the transmit timer (R124). -/
  | txTick
  /-- SETUP_RX: `setup(receive_pin)` (R135). -/
  | setupRx
  /-- SETUP_TX: `setup(transmit_pin, transmit_enable_pin)` (R136). -/
  | setupTx
  /-- ENABLE: `enable()` (R137). -/
  | enable
  /-- DISABLE: `disable()` (R138). -/
  | disable
  /-- LOOP: `loop()`, one step of the decode state machine (R100). -/
  | loop
  /-- READ: `read()`, take the published frame (R108). -/
  | read
  /-- SEND: `send(bytes, length)`, submit a frame (R120). -/
  | send (bytes : List Byte)
  /-- BIT_TIMEOUT: the end of one bit window, performed by RXTICK (R92). -/
  | bitTimeout
  /-- FRAME_TIMEOUT: the end of the pulse train, performed by RXTICK (R93). -/
  | frameTimeout
  deriving DecidableEq, Repr

/-- The two input formats (R61). -/
inductive Format where
  /-- One byte, the opcode. -/
  | op
  /-- The opcode, the payload length, the payload bytes. -/
  | opSend
  deriving DecidableEq, Repr

end Sys2Proof
end

