-- ==== Sys2Proof/WellFormed.lean ====
section
/-! DEFINITION. Which operations an input can carry: spec/30_encoding.md rules R60, R62, R63, R71. -/

namespace Sys2Proof

/-- The length operand of SEND is one byte, 0..255; "a payload longer than 255 bytes cannot be
encoded" (R63). -/
def Instr.payloadFits : Instr → Bool
  | .send bytes => decide (bytes.length ≤ 255)
  | .edge | .rxTick | .txTick | .setupRx | .setupTx | .enable | .disable | .loop | .read
  | .bitTimeout | .frameTimeout => true

/-- The column "issuable as input" of R62: the two internal actions are trace codes only. -/
def Instr.issuable : Instr → Bool
  | .bitTimeout | .frameTimeout => false
  | .edge | .rxTick | .txTick | .setupRx | .setupTx | .enable | .disable | .loop | .read
  | .send _ => true

/-- An operation that an input trace may hold. -/
def Instr.wellFormed (i : Instr) : Bool := i.payloadFits && i.issuable

end Sys2Proof
end

