-- ==== Sys2Proof/Decode.lean ====
section
/-! DEFINITION. The operation alphabet: spec/30_encoding.md rules R61 to R63, R71, R72, and
spec/opcode_table.json; the decoder, and after it the encoder. -/

namespace Sys2Proof

/-- What the opcode byte decides: a whole OP operation, or the OP_SEND format (R61). -/
inductive Head where
  /-- The operation is this one byte. -/
  | plain (i : Instr)
  /-- A SEND, whose length and payload follow. -/
  | send
  deriving DecidableEq, Repr

/-- One row of the opcode assignment (R62): `b` matches when `b & mask = pattern`. -/
structure OpRow where
  pattern : Byte
  mask : Byte
  head : Head
  deriving DecidableEq, Repr

/-- The format column of R62. -/
def Head.format : Head → Format
  | .plain _ => .op
  | .send => .opSend

/-- The opcode assignment of R62, "match with mask 0xFF". -/
def opcodeRows : List OpRow :=
  [ ⟨0x01, 0xFF, .plain .edge⟩,
    ⟨0x02, 0xFF, .plain .rxTick⟩,
    ⟨0x03, 0xFF, .plain .txTick⟩,
    ⟨0x10, 0xFF, .plain .setupRx⟩,
    ⟨0x11, 0xFF, .plain .setupTx⟩,
    ⟨0x12, 0xFF, .plain .enable⟩,
    ⟨0x13, 0xFF, .plain .disable⟩,
    ⟨0x20, 0xFF, .plain .loop⟩,
    ⟨0x21, 0xFF, .plain .read⟩,
    ⟨0x22, 0xFF, .send⟩,
    ⟨0x81, 0xFF, .plain .bitTimeout⟩,
    ⟨0x82, 0xFF, .plain .frameTimeout⟩ ]

/-- Does this row read this opcode byte? -/
def OpRow.matchesByte (r : OpRow) (b : Byte) : Bool := b &&& r.mask == r.pattern

/-- The row that reads an opcode byte, if one does. -/
def lookupRow (b : Byte) : Option OpRow := opcodeRows.find? (fun r => r.matchesByte b)

/-- Why a byte string is no operation. -/
inductive DecodeError where
  /-- There is no byte to read. -/
  | noInput
  /-- A SEND whose byte string ends before byte L+1 (R71). -/
  | incompleteSend
  /-- No row of R62 has this opcode (R71). -/
  | illegalOpcode (b : Byte)
  deriving DecidableEq, Repr

/-- Bytes 1..L+1 of a SEND: the length and the payload (R61, R63). -/
def decodeSend : List Byte → Except DecodeError (Instr × List Byte)
  | [] => .error .incompleteSend
  | len :: rest =>
    if rest.length < len.toNat then .error .incompleteSend
    else .ok (.send (rest.take len.toNat), rest.drop len.toNat)

/-- The operation at the front of a byte string, with the rest of the string. The length comes
from byte 0 alone, but for SEND, which takes it from byte 1 (R61, R72). -/
def decode : List Byte → Except DecodeError (Instr × List Byte)
  | [] => .error .noInput
  | b :: rest =>
    match lookupRow b with
    | none => .error (.illegalOpcode b)
    | some r =>
      match r.head with
      | .plain i => .ok (i, rest)
      | .send => decodeSend rest

/-- The opcode of an operation (R62); also its code in the observation trace (R65). -/
def Instr.opcode : Instr → Byte
  | .edge => 0x01
  | .rxTick => 0x02
  | .txTick => 0x03
  | .setupRx => 0x10
  | .setupTx => 0x11
  | .enable => 0x12
  | .disable => 0x13
  | .loop => 0x20
  | .read => 0x21
  | .send _ => 0x22
  | .bitTimeout => 0x81
  | .frameTimeout => 0x82

/-- What follows the opcode: for SEND its length and payload, else nothing (R61). -/
def Instr.operandBytes : Instr → List Byte
  | .send bytes => BitVec.ofNat 8 bytes.length :: bytes
  | .edge | .rxTick | .txTick | .setupRx | .setupTx | .enable | .disable | .loop | .read
  | .bitTimeout | .frameTimeout => []

/-- The bytes of an operation (R61). -/
def encode (i : Instr) : List Byte := i.opcode :: i.operandBytes

/-- The bytes of the table's bits: byte k is bits 8k+7..8k of `w`, the first byte lowest. -/
def tableBytes (nbits w : Nat) : List Byte :=
  (List.range ((nbits + 7) / 8)).map (fun k => BitVec.ofNat 8 (w >>> (8 * k)))

/-- The instruction the decoder reads from the table's bits, every later bit 0; 257 bytes is the
longest operation (R61: 2 + L, L ≤ 255). -/
def decodeTableWord (nbits w : Nat) : Option Instr :=
  match decode (tableBytes nbits w ++ List.replicate 257 0) with
  | .ok (i, _) => some i
  | .error _ => none

end Sys2Proof
end

