-- ==== Sys2Proof/Machine/State.lean ====
section
/-! DEFINITION. The state of the block, plain data: spec/10_state.md rules R18 to R44, with the
model's own interface fields, and the reasons a step can stop. -/

namespace Sys2Proof.Machine

/-- A word buffer (R45): the elements that are not 0, as (index, element) pairs, indices strictly
rising; an element that is not listed reads as 0 (assumption 9). -/
abbrev WordBuf (w : Nat) := List (Nat × BitVec w)

/-- What the next transmit load phase emits (R39). -/
inductive TxNext where
  | start
  | data
  | pause
  deriving DecidableEq, Repr

/-- The fault codes of R151: causes recorded in the state's fault register. -/
inductive FaultCode where
  /-- 1: the path's setup was never called. -/
  | notConfigured
  /-- 2: a second setup of one path. -/
  | setupRepeated
  /-- 3: an input byte that no operation has. -/
  | illegalOp
  deriving DecidableEq, Repr

/-- The step stops with no next state. The spec's own faults are next states with the fault
register written (assumption 6); this type holds the model's assertions. -/
inductive Fault where
  /-- A buffer index outside 0..MAX_WORDLEN-1, which R45 calls unreachable and lets a model
  assert. Raised by LOOP and READ, in states no run reaches. Safe: the model stops. -/
  | bufferIndex
  deriving DecidableEq, Repr

/-- The step has no meaning to give. -/
inductive Refusal where
  /-- An instruction without a meaning in the model; raised by no arm. Safe: the model stops. -/
  | notModelled (mnemonic : String)
  /-- A state whose fault register is set "has no further step: every later input is refused"
  (R150). Raised by every meaning and by the fetch. Safe: the spec gives no step. -/
  | stuckAfterFault (code : FaultCode)
  /-- The input trace is at its end, so no operation is left to perform (assumption 3). Raised by
  the fetch. Safe: there is no step to speak of. -/
  | noInput
  /-- A SEND whose bytes end before its length says: "a trace ending inside it is refused by the
  model" (R71, I7). Raised by the fetch. Safe: the spec refuses it too. -/
  | incompleteInput
  deriving DecidableEq, Repr

/-- The block's whole state (R13), then the model's interface fields. -/
structure State where
  /-- R18: the receive path is set up. -/
  rxConfigured : Bool
  /-- R18: the transmit path is set up. -/
  txConfigured : Bool
  /-- R19: the receive edge interrupt is attached. -/
  rxEnabled : Bool
  /-- R20: the running edge counter. -/
  edgeCnt : Count
  /-- R21: the bit-timeout timer runs. -/
  btoRun : Bool
  /-- R21: its ticks left. -/
  btoCnt : Nat
  /-- R22: the frame-timeout timer runs. -/
  ftoRun : Bool
  /-- R22: its ticks left. -/
  ftoCnt : Nat
  /-- R23: the latched Pulse Count. -/
  pulseCnt : Count
  /-- R24: bit-received. -/
  bitRx : Bool
  /-- R25: bitstream-received. -/
  streamRx : Bool
  /-- R26: the Bit-One Threshold. -/
  threshold : Count
  /-- R27: the next accepted pulse count is the frame's start bit. -/
  startFlag : Bool
  /-- R28: the position of the next bit in the current Word. -/
  bitIdx : BitIndex
  /-- R29: the index of the Word being assembled. -/
  wordIdx : WordIndex
  /-- R30: the Frame Validity Flag of the frame being received. -/
  valid : Bool
  /-- R31: the receive word buffer. -/
  rxWords : WordBuf 8
  /-- R32: the published frame's words. -/
  pubWords : WordBuf 8
  /-- R32: the published frame's length. -/
  pubLen : WordIndex
  /-- R32: the published frame's validity. -/
  pubValid : Bool
  /-- R33: data-ready. -/
  dataReady : Bool
  /-- R34: from an accepted SEND until the transmit stop. -/
  transmitting : Bool
  /-- R35: the transmit word buffer. -/
  txWords : WordBuf 9
  /-- R36: the total bit-length. -/
  txBitLen : BitCursor
  /-- R37: the bit cursor. -/
  txCursor : BitCursor
  /-- R38: the remaining-tick counter. -/
  txRemaining : TickCount
  /-- R39: what the next load phase emits. -/
  txNext : TxNext
  /-- R40: the transmit timer runs. -/
  txTimerRun : Bool
  /-- R41: the register of the port `carrier`. -/
  carrierOn : Bool
  /-- R41: the register of the port `tx_enable`. -/
  txEnableOut : Bool
  /-- R42: the first fault. -/
  fault : Option FaultCode
  /-- The model's own: the input trace still to come (R61; assumption 2). -/
  input : List Byte
  /-- The model's own: the last step's response, none where it has none (R64; assumption 5). -/
  response : Option (List Byte)
  /-- The model's own: the opcodes the last step performed (R65; assumption 5). -/
  trace : List Byte
  deriving DecidableEq, Repr

/-- Power-on reset (R44, R170). The word buffers are unspecified there and 0 here (assumption 9);
the interface fields are empty (assumptions 2 and 5). -/
def State.reset : State where
  rxConfigured := false
  txConfigured := false
  rxEnabled := false
  edgeCnt := 0
  btoRun := false
  btoCnt := 0
  ftoRun := false
  ftoCnt := 0
  pulseCnt := 0
  bitRx := false
  streamRx := false
  threshold := 0
  startFlag := true
  bitIdx := 0
  wordIdx := 0
  valid := true
  rxWords := []
  pubWords := []
  pubLen := 0
  pubValid := false
  dataReady := false
  transmitting := false
  txWords := []
  txBitLen := 0
  txCursor := 0
  txRemaining := 0
  txNext := .start
  txTimerRun := false
  carrierOn := false
  txEnableOut := false
  fault := none
  input := []
  response := none
  trace := []

/-- What an observer of the block sees of a step: the opcodes performed, the response, and the
port levels after it (R16, R64, R65, D26). -/
structure Observation where
  trace : List Byte
  response : Option (List Byte)
  carrier : Bool
  txEnable : Bool
  deriving DecidableEq, Repr

end Sys2Proof.Machine
end

