-- ==== Sys2Proof/Machine/Ops.lean ====
section
/-! DEFINITION. The named operations over the word buffers and the state: the buffer primitives
(spec/20_memory.md R45), raising a fault (spec/60_exceptions.md R150), the response and trace of a
step (spec/30_encoding.md R64, R65), the two partial resets (spec/42_rx_decode.md R101,
spec/44_control.md R139). -/

namespace Sys2Proof.Machine

/-- `arr[i]` (R45): an element that is not listed is 0. -/
def bufRead {w : Nat} : WordBuf w → Nat → BitVec w
  | [], _ => 0
  | (a, x) :: b, i => if a = i then x else bufRead b i

/-- An element put in its place in the order of indices. -/
def bufInsert {w : Nat} : WordBuf w → Nat → BitVec w → WordBuf w
  | [], i, v => [(i, v)]
  | (a, x) :: b, i, v => if i < a then (i, v) :: (a, x) :: b else (a, x) :: bufInsert b i v

/-- `arr[i] <- v` (R45): the old element goes, and the new one is listed unless it is 0. -/
def bufWrite {w : Nat} (b : WordBuf w) (i : Nat) (v : BitVec w) : WordBuf w :=
  if v = 0 then b.filter (fun p => p.1 != i) else bufInsert (b.filter (fun p => p.1 != i)) i v

/-- `arr[start + k] <- vs[k]` for every k, in order. -/
def bufWriteAll {w : Nat} (b : WordBuf w) (start : Nat) : List (BitVec w) → WordBuf w
  | [] => b
  | v :: vs => bufWriteAll (bufWrite b start v) (start + 1) vs

/-- `[arr[0], ..., arr[n-1]]`. -/
def bufReadAll {w : Nat} (b : WordBuf w) (n : Nat) : List (BitVec w) :=
  (List.range n).map (bufRead b)

/-- The canonical form of one buffer: indices strictly rising, no listed element 0. -/
abbrev bufWf {w : Nat} (b : WordBuf w) : Prop :=
  b.Pairwise (fun p q => p.1 < q.1) ∧ ∀ p ∈ b, p.2 ≠ 0

/-- Every listed index is below `n`. -/
abbrev bufBelow {w : Nat} (n : Nat) (b : WordBuf w) : Prop := ∀ p ∈ b, p.1 < n

/-- The canonical form of all the state's buffers. -/
abbrev Memory.wf (s : State) : Prop := bufWf s.rxWords ∧ bufWf s.pubWords ∧ bufWf s.txWords

/-- No buffer lists an element outside 0..MAX_WORDLEN-1 (R45). -/
abbrev Memory.inRange (c : Cfg) (s : State) : Prop :=
  bufBelow c.maxWordlen s.rxWords ∧ bufBelow c.maxWordlen s.pubWords ∧
    bufBelow c.maxWordlen s.txWords

/-- Go on only if elements 0..n-1 of a buffer exist (R45: an index outside is unreachable, "a
model may treat an out-of-range index as unreachable and assert it"; assumption 10). -/
def needWords (c : Cfg) (n : Nat) (s : State) : Except Fault State :=
  if n ≤ c.maxWordlen then .ok s else .error .bufferIndex

/-- A checked result as the outcome of a step. -/
def outcomeOf : Except Fault State → Host.Outcome State Fault Refusal
  | .ok s => .next s
  | .error e => .fault e

/-- The value column of R151. -/
def FaultCode.value : FaultCode → Nat
  | .notConfigured => 1
  | .setupRepeated => 2
  | .illegalOp => 3

/-- The codes of R39. -/
def TxNext.code : TxNext → BitVec 2
  | .start => 0
  | .data => 1
  | .pause => 2

/-- `raise Fault(code)` in the operation with opcode `op`: the fault is recorded, there is no
response, and nothing else of the block changes (R150); the opcode is the trace's last input
(R151). -/
def raiseFault (code : FaultCode) (op : Byte) (s : State) : State :=
  { s with fault := some code, response := none, trace := [op] }

/-- The guard `fault = none` that every operation has: a faulted block takes no further step and
refuses every input (R42, R150). -/
def whileRunning (s : State) (k : Host.Outcome State Fault Refusal) :
    Host.Outcome State Fault Refusal :=
  match s.fault with
  | none => k
  | some code => .refused (.stuckAfterFault code)

/-- A step's outputs: the opcodes it performed (R65) and its response (R64). -/
def respond (ops : List Byte) (bytes : List Byte) (s : State) : State :=
  { s with trace := ops, response := some bytes }

/-- The port `carrier` shows its register (R16, R41). -/
def carrierPort (s : State) : Bool := s.carrierOn

/-- The port `tx_enable` shows its register (R16, R41). -/
def txEnablePort (s : State) : Bool := s.txEnableOut

/-- What an observer sees in the state a step left (R65, D26). -/
def observe (s : State) : Observation where
  trace := s.trace
  response := s.response
  carrier := carrierPort s
  txEnable := txEnablePort s

/-- The reset of all per-frame state, which ends FRAME_CLOSE (R101) and is part of RX_RESET
(R139). -/
def frameReset (s : State) : State :=
  { s with threshold := 0, bitIdx := 0, wordIdx := 0, startFlag := true, valid := true }

/-- `bitRx <- 0` (R24). -/
def clearBit (s : State) : State := { s with bitRx := false }

/-- `streamRx <- 0` (R25). -/
def clearStream (s : State) : State := { s with streamRx := false }

/-- `dataReady <- 0` (R33). -/
def clearReady (s : State) : State := { s with dataReady := false }

/-- `rxConfigured <- 1` (R18). -/
def configureRx (s : State) : State := { s with rxConfigured := true }

/-- `txConfigured <- 1` (R18). -/
def configureTx (s : State) : State := { s with txConfigured := true }

/-- `rxEnabled <- b` (R19). -/
def setEnabled (b : Bool) (s : State) : State := { s with rxEnabled := b }

/-- RX_RESET (R139): the capture state and the per-frame decode state; an unread published frame
and `pulseCnt` are not touched. -/
def rxReset (s : State) : State :=
  frameReset
    { s with
      edgeCnt := 0, btoRun := false, btoCnt := 0, ftoRun := false, ftoCnt := 0,
      bitRx := false, streamRx := false }

/-- Both outputs off, the timer stopped, no transmission: TX_STOP and SETUP_TX (R128, R136). -/
def stopOutputs (s : State) : State :=
  { s with carrierOn := false, txEnableOut := false, txTimerRun := false, transmitting := false }

/-- A bit as a byte of a response (R64). -/
def boolByte (b : Bool) : Byte := if b then 1 else 0

end Sys2Proof.Machine
end

