-- ==== Sys2Proof/Machine/Flags.lean ====
section
/-! DEFINITION. The flag computations: parity and its check, the bit classifier, the CRC check
(spec/40_codec.md R80, R81, R85; spec/42_rx_decode.md R101, R105), the expiry of a receive timer
(spec/41_rx_capture.md R91), the busy and length tests of SEND (spec/43_tx.md R121), and the
classes of a pulse count (spec/30_encoding.md R70). -/

namespace Sys2Proof.Machine

/-- `popcount(v)`: the number of set bits (R9). -/
def popcount {w : Nat} (v : BitVec w) : Nat := (List.range w).countP (fun k => v.getLsbD k)

/-- `parity_odd(byte)`: 1 iff the number of set bits is even (R80). -/
def parityOdd (x : Byte) : Bool := popcount x % 2 == 0

/-- `classify(cnt, threshold)`: shorter pulse trains encode 1 (R85). -/
def classify (cnt threshold : Count) : Bool := decide (cnt.toNat < threshold.toNat)

/-- The frame-end check (R101): of the n assembled Words, the last equals the CRC8 of the ones
before it. Only asked for n ≥ 1. -/
def crcMatches (c : Cfg) (rx : WordBuf 8) (n : Nat) : Bool :=
  bufRead rx (n - 1) == c.crc8 (bufReadAll rx (n - 1))

/-- A timer's count after one RXTICK: a running timer counts down (R91). -/
def timerCount (run : Bool) (cnt : Nat) : Nat := if run then cnt - 1 else cnt

/-- Does a timer expire on this RXTICK? (R91: `fireB`, `fireF`; assumption 11 for a running timer
with no ticks left, which no run reaches.) -/
def timerFires (run : Bool) (cnt : Nat) : Bool := run && timerCount run cnt == 0

/-- SEND is rejected when a transmission is in progress or the payload is too long (R121). -/
def sendRejected (c : Cfg) (length : Nat) (s : State) : Bool :=
  s.transmitting || decide (length ≥ c.maxWordlen - 1)

/-- The classes of the decode map (R70). -/
inductive PulseClass where
  | noise
  | startNoise
  | startBit
  | one
  | zero
  deriving DecidableEq, Repr

/-- The decode map of a received pulse count (R70). -/
def pulseClass (c : Cfg) (startFlag : Bool) (threshold cnt : Count) : PulseClass :=
  if cnt.toNat < c.bitMinLen then .noise
  else if startFlag then (if cnt.toNat < c.startbitMinLen then .startNoise else .startBit)
  else if classify cnt threshold then .one else .zero

end Sys2Proof.Machine
end

