-- ==== Sys2Proof/Machine/Operands.lean ====
section
/-! DEFINITION. The operand forms: the operands of SEND (spec/30_encoding.md R63), the Words and
the bits of the transmit buffer (R66, spec/20_memory.md R47, spec/40_codec.md R81, R83, R86), and
the threshold taken from a start bit's count (R84). -/

namespace Sys2Proof.Machine

/-- `crc8(bytes, count)`: the checksum of the first `count` bytes (R81). -/
def crc8 (c : Cfg) (bytes : List Byte) (count : Nat) : Byte := c.crc8 (bytes.take count)

/-- `pack9(byte)`: the byte with its odd-parity bit at bit 8 (R66, R86). -/
def pack9 (b : Byte) : TxWord :=
  b.setWidth 9 ||| ((BitVec.ofBool (parityOdd b)).setWidth 9 <<< 8)

/-- The Words a frame is sent as: one for each payload byte, and the CRC Word last (R122). -/
def frameWords (c : Cfg) (bytes : List Byte) : List TxWord :=
  (bytes ++ [crc8 c bytes bytes.length]).map pack9

/-- The total bit-length of a frame (R123). -/
def frameBitLen (length : Nat) : BitCursor := BitVec.ofNat 12 (9 * length + 9)

/-- The bit at cursor c: bit `c mod 9` of `txWords[c div 9]` (R37, R47). -/
def txBit (words : WordBuf 9) (cursor : BitCursor) : Bool :=
  (bufRead words (cursor.toNat / 9)).getLsbD (cursor.toNat % 9)

/-- `pulse_length_for_bit(bit)` (R83), as the tick count a burst loads (R126). -/
def pulseLengthForBit (c : Cfg) (b : Bool) : TickCount :=
  BitVec.ofNat 16 (if b then c.onePulsenum else c.zeroPulsenum)

/-- `thresholdOf(cnt)`: exact on naturals, rounded toward zero (R84). -/
def thresholdOf (c : Cfg) (cnt : Count) : Count :=
  BitVec.ofNat 16 (cnt.toNat * c.bitOneDivDen / c.bitOneDivNum)

/-- The receive assembler's `rxWords[w] | (b << bitIdx)`, truncated to 8 bits (R45, R105). -/
def placeBit (word : Byte) (b : Bool) (bitIdx : BitIndex) : Byte :=
  word ||| ((BitVec.ofBool b).setWidth 8 <<< bitIdx.toNat)

end Sys2Proof.Machine
end

