-- ==== Sys2Proof/Machine/Capture.lean ====
section
/-! DEFINITION. The receive carrier-edge detector and pulse counter: spec/41_rx_capture.md rules
R90 to R93 (EDGE, RXTICK, BIT_TIMEOUT, FRAME_TIMEOUT). -/

namespace Sys2Proof.Machine

/-- The edge handler (R90). -/
def edgeStep (c : Cfg) (s : State) : State :=
  if s.rxEnabled then
    { s with
      edgeCnt := s.edgeCnt + 1
      btoCnt := c.tBit, btoRun := true
      ftoCnt := c.tFrame, ftoRun := true }
  else s

/-- The bit-timeout handler: one bit window has ended (R92). -/
def bitTimeout (s : State) : State :=
  { s with pulseCnt := s.edgeCnt, edgeCnt := 0, bitRx := true, btoRun := false }

/-- The frame-timeout handler: the whole pulse train has ended (R93). -/
def frameTimeout (s : State) : State :=
  { s with streamRx := true, ftoRun := false }

/-- Both receive timers counted down by one tick, no handler performed yet (R91). -/
def countTimers (s : State) : State :=
  { s with btoCnt := timerCount s.btoRun s.btoCnt, ftoCnt := timerCount s.ftoRun s.ftoCnt }

/-- RXTICK: the timers count down, then BIT_TIMEOUT, then FRAME_TIMEOUT, each if its timer
expired (R91). -/
def rxTickStep (s : State) : State :=
  let s1 := countTimers s
  let s2 := if timerFires s.btoRun s.btoCnt then bitTimeout s1 else s1
  if timerFires s.ftoRun s.ftoCnt then frameTimeout s2 else s2

/-- The opcodes an RXTICK performs (R65). -/
def rxTickTrace (s : State) : List Byte :=
  [Instr.opcode .rxTick] ++
    (if timerFires s.btoRun s.btoCnt then [Instr.opcode .bitTimeout] else []) ++
    (if timerFires s.ftoRun s.ftoCnt then [Instr.opcode .frameTimeout] else [])

/-- EDGE on a given configuration (R90). -/
def edgeOn (c : Cfg) (s : State) : Host.Outcome State Fault Refusal :=
  whileRunning s (.next (respond [Instr.opcode .edge] [] (edgeStep c s)))

/-- EDGE (R90). -/
def execEdge (s : State) : Host.Outcome State Fault Refusal := edgeOn Config.cfg s

/-- RXTICK (R91). -/
def execRxTick (s : State) : Host.Outcome State Fault Refusal :=
  whileRunning s (.next (respond (rxTickTrace s) [] (rxTickStep s)))

/-- BIT_TIMEOUT as an action of its own (R92). As an input byte it never gets here: it is not
well formed, and the step raises ILLEGAL_OP (R71; assumption 8). -/
def execBitTimeout (s : State) : Host.Outcome State Fault Refusal :=
  whileRunning s (.next (respond [Instr.opcode .bitTimeout] [] (bitTimeout s)))

/-- FRAME_TIMEOUT as an action of its own (R93); as an input byte, see `execBitTimeout`. -/
def execFrameTimeout (s : State) : Host.Outcome State Fault Refusal :=
  whileRunning s (.next (respond [Instr.opcode .frameTimeout] [] (frameTimeout s)))

end Sys2Proof.Machine
end

