-- ==== Sys2Proof/Machine/Control.lean ====
section
/-! DEFINITION. Setup, enable and disable: spec/44_control.md rules R135 to R138. -/

namespace Sys2Proof.Machine

/-- SETUP_RX: one-time; a second one raises SETUP_REPEATED (R135). -/
def execSetupRx (s : State) : Host.Outcome State Fault Refusal :=
  whileRunning s
    (.next
      (if s.rxConfigured then raiseFault .setupRepeated (Instr.opcode .setupRx) s
       else
        respond [Instr.opcode .setupRx] []
          (rxReset (setEnabled true (configureRx s)))))

/-- SETUP_TX: one-time; the timer stopped and both outputs low (R136). -/
def execSetupTx (s : State) : Host.Outcome State Fault Refusal :=
  whileRunning s
    (.next
      (if s.txConfigured then raiseFault .setupRepeated (Instr.opcode .setupTx) s
       else
        respond [Instr.opcode .setupTx] [] (configureTx (stopOutputs s))))

/-- ENABLE: receive on, and the receive state reset even if it was on (R137). -/
def execEnable (s : State) : Host.Outcome State Fault Refusal :=
  whileRunning s
    (.next
      (if s.rxConfigured then
        respond [Instr.opcode .enable] [] (rxReset (setEnabled true s))
       else raiseFault .notConfigured (Instr.opcode .enable) s))

/-- DISABLE: receive off, and the receive state reset (R138). -/
def execDisable (s : State) : Host.Outcome State Fault Refusal :=
  whileRunning s
    (.next
      (if s.rxConfigured then
        respond [Instr.opcode .disable] [] (rxReset (setEnabled false s))
       else raiseFault .notConfigured (Instr.opcode .disable) s))

end Sys2Proof.Machine
end

