-- ==== Sys2Proof/Machine/RxDecode.lean ====
section
/-! DEFINITION. The receive decode state machine: spec/42_rx_decode.md rules R100 to R109 (LOOP,
READ). -/

namespace Sys2Proof.Machine

/-- The publishing part of FRAME_CLOSE, for a frame of at least one Word (R101): the CRC check,
then the copy of the Words, the length and the validity flag. -/
def publish (c : Cfg) (s : State) : State :=
  let ok := s.valid && crcMatches c s.rxWords s.wordIdx.toNat
  { s with
    valid := ok
    pubWords := bufWriteAll s.pubWords 0 (bufReadAll s.rxWords s.wordIdx.toNat)
    pubLen := s.wordIdx
    pubValid := ok
    dataReady := true }

/-- FRAME_CLOSE (R101). -/
def frameClose (c : Cfg) (s : State) : Except Fault State :=
  if s.wordIdx = 0 then .ok (frameReset s)
  else needWords c s.wordIdx.toNat (frameReset (publish c s))

/-- The start-bit case of BIT_STEP, for a count that is wide enough (R104). -/
def loadThreshold (c : Cfg) (cnt : Count) (s : State) : State :=
  { s with threshold := thresholdOf c cnt, startFlag := false }

/-- OVERFLOW_GUARD on a word index not yet narrowed (R106; assumption 13). -/
def overflowGuard (c : Cfg) (w : Nat) : WordIndex :=
  if w ≥ c.maxWordlen then 0 else BitVec.ofNat 8 w

/-- The payload bits of the current Word so far: none at its first bit, where its storage is
zero-initialised (R105). -/
def currentWord (s : State) : Byte :=
  if s.bitIdx = 0 then 0 else bufRead s.rxWords s.wordIdx.toNat

/-- A normal bit at the parity position: checked against the Word, not stored, and on to the next
Word (R105), then the overflow guard (R106). -/
def parityBit (c : Cfg) (b : Bool) (s : State) : State :=
  { s with
    valid := s.valid && (b == parityOdd (currentWord s))
    wordIdx := overflowGuard c (s.wordIdx.toNat + 1)
    bitIdx := 0 }

/-- A normal bit at a payload position: ORed into its place in the Word (R105), then the overflow
guard (R106). -/
def dataBit (c : Cfg) (b : Bool) (s : State) : State :=
  { s with
    rxWords := bufWrite s.rxWords s.wordIdx.toNat (placeBit (currentWord s) b s.bitIdx)
    wordIdx := overflowGuard c s.wordIdx.toNat
    bitIdx := s.bitIdx + 1 }

/-- The normal bit `b`: position 8 is the parity position (R28, R105). -/
def assembleBit (c : Cfg) (b : Bool) (s : State) : State :=
  if s.bitIdx = 8 then parityBit c b s else dataBit c b s

/-- BIT_STEP on a count taken from the handoff slot (R102), by its class in the decode map (R70):
noise (R103), a start bit too short or wide enough (R104), or a normal bit (R105). -/
def bitCases (c : Cfg) (cnt : Count) (s : State) : Except Fault State :=
  match pulseClass c s.startFlag s.threshold cnt with
  | .noise => .ok s
  | .startNoise => .ok s
  | .startBit => .ok (loadThreshold c cnt s)
  | .one => needWords c (s.wordIdx.toNat + 1) (assembleBit c true s)
  | .zero => needWords c (s.wordIdx.toNat + 1) (assembleBit c false s)

/-- LOOP's frame-end branch, checked first (R100). -/
def frameBranch (c : Cfg) (s : State) : Except Fault State :=
  if s.streamRx then frameClose c (clearStream s) else .ok s

/-- LOOP's bit branch, checked second (R100, R102). -/
def bitBranch (c : Cfg) (s : State) : Except Fault State :=
  if s.bitRx then bitCases c s.pulseCnt (clearBit s) else .ok s

/-- Both branches of one LOOP, in order (R100, R107). -/
def loopStep (c : Cfg) (s : State) : Except Fault State :=
  match frameBranch c s with
  | .ok s1 => bitBranch c s1
  | .error e => .error e

/-- READ's response when a frame is ready (R64, R108). -/
def frameResponse (s : State) : List Byte :=
  [1, s.pubLen, boolByte s.pubValid] ++ bufReadAll s.pubWords s.pubLen.toNat

/-- LOOP in a running block (R100). -/
def loopCommand (c : Cfg) (s : State) : Host.Outcome State Fault Refusal :=
  if s.rxConfigured then
    match loopStep c s with
    | .ok t => .next (respond [Instr.opcode .loop] [] t)
    | .error e => .fault e
  else .next (raiseFault .notConfigured (Instr.opcode .loop) s)

/-- READ in a running block (R108). -/
def readCommand (c : Cfg) (s : State) : Host.Outcome State Fault Refusal :=
  if s.rxConfigured then
    if s.dataReady then
      outcomeOf (needWords c s.pubLen.toNat
        (respond [Instr.opcode .read] (frameResponse s) (clearReady s)))
    else .next (respond [Instr.opcode .read] [0] s)
  else .next (raiseFault .notConfigured (Instr.opcode .read) s)

/-- LOOP on a given configuration (R100). -/
def loopOn (c : Cfg) (s : State) : Host.Outcome State Fault Refusal :=
  whileRunning s (loopCommand c s)

/-- READ on a given configuration (R108). -/
def readOn (c : Cfg) (s : State) : Host.Outcome State Fault Refusal :=
  whileRunning s (readCommand c s)

/-- LOOP (R100). -/
def execLoop (s : State) : Host.Outcome State Fault Refusal := loopOn Config.cfg s

/-- READ (R108). -/
def execRead (s : State) : Host.Outcome State Fault Refusal := readOn Config.cfg s

end Sys2Proof.Machine
end

