-- ==== Sys2Proof/Machine/Transmit.lean ====
section
/-! DEFINITION. The transmit frame builder and pulse scheduler: spec/43_tx.md rules R120 to R128
(SEND, TXTICK). -/

namespace Sys2Proof.Machine

/-- SEND_ACCEPT (R122): the Words and the CRC Word into the buffer, the scheduler at its start,
receive disabled and reset, then `tx_enable` raised and the timer started. -/
def sendAccept (c : Cfg) (bytes : List Byte) (s : State) : State :=
  { rxReset
      { s with
        txWords := bufWriteAll s.txWords 0 (frameWords c bytes)
        txBitLen := frameBitLen bytes.length
        txCursor := 0
        txRemaining := 0
        txNext := .start
        rxEnabled := false } with
    txEnableOut := true
    transmitting := true
    txTimerRun := true }

/-- TX_STOP: outputs off, timer stopped, and receive re-enabled where it was set up (R128). -/
def txStop (s : State) : State :=
  if s.rxConfigured then rxReset (setEnabled true (stopOutputs s)) else stopOutputs s

/-- "all bits have been sent": the cursor is at the total bit-length or at the buffer's capacity
(R126). -/
def txDone (c : Cfg) (s : State) : Bool :=
  decide (s.txCursor.toNat ≥ s.txBitLen.toNat) || decide (s.txCursor.toNat ≥ 9 * c.maxWordlen)

/-- The start burst (R126). -/
def loadStart (c : Cfg) (s : State) : State :=
  { s with
    carrierOn := true, txRemaining := BitVec.ofNat 16 c.startbitPulsenum, txNext := .pause }

/-- A data or CRC bit's burst; the only load that advances the cursor (R126). -/
def loadData (c : Cfg) (s : State) : State :=
  { s with
    carrierOn := true
    txRemaining := pulseLengthForBit c (txBit s.txWords s.txCursor)
    txCursor := s.txCursor + 1
    txNext := .pause }

/-- A pause (R126). -/
def loadPause (c : Cfg) (s : State) : State :=
  { s with
    carrierOn := false, txRemaining := BitVec.ofNat 16 c.pausePulsenum, txNext := .data }

/-- The load phase: the stop test first, then what `txNext` says (R126). -/
def loadPhase (c : Cfg) (s : State) : State :=
  if txDone c s then txStop s
  else
    match s.txNext with
    | .start => loadStart c s
    | .data => loadData c s
    | .pause => loadPause c s

/-- The countdown phase: still emitting the current burst or pause (R125). -/
def countdown (s : State) : State := { s with txRemaining := s.txRemaining - 1 }

/-- TXTICK: nothing with the timer stopped, else the countdown or the load phase (R124). -/
def txTickStep (c : Cfg) (s : State) : State :=
  if s.txTimerRun then (if s.txRemaining = 0 then loadPhase c s else countdown s) else s

/-- SEND in a running block (R120, R121). -/
def sendCommand (c : Cfg) (bytes : List Byte) (s : State) : State :=
  if s.txConfigured then
    if sendRejected c bytes.length s then respond [Instr.opcode (.send bytes)] [0] s
    else respond [Instr.opcode (.send bytes)] [1] (sendAccept c bytes s)
  else raiseFault .notConfigured (Instr.opcode (.send bytes)) s

/-- SEND on a given configuration (R120). -/
def sendOn (c : Cfg) (bytes : List Byte) (s : State) : Host.Outcome State Fault Refusal :=
  whileRunning s (.next (sendCommand c bytes s))

/-- TXTICK on a given configuration (R124). -/
def txTickOn (c : Cfg) (s : State) : Host.Outcome State Fault Refusal :=
  whileRunning s (.next (respond [Instr.opcode .txTick] [] (txTickStep c s)))

/-- SEND (R120). -/
def execSend (bytes : List Byte) (s : State) : Host.Outcome State Fault Refusal :=
  sendOn Config.cfg bytes s

/-- TXTICK (R124). -/
def execTxTick (s : State) : Host.Outcome State Fault Refusal := txTickOn Config.cfg s

end Sys2Proof.Machine
end

