-- ==== Sys2Proof/Machine/Dispatch.lean ====
section
/-! DEFINITION. One arm for each operation (spec/30_encoding.md R60): its meaning. -/

namespace Sys2Proof.Machine

def exec (i : Instr) (s : State) : Host.Outcome State Fault Refusal :=
  match i with
  | .edge => Sys2Proof.Machine.execEdge s
  | .rxTick => Sys2Proof.Machine.execRxTick s
  | .txTick => Sys2Proof.Machine.execTxTick s
  | .setupRx => Sys2Proof.Machine.execSetupRx s
  | .setupTx => Sys2Proof.Machine.execSetupTx s
  | .enable => Sys2Proof.Machine.execEnable s
  | .disable => Sys2Proof.Machine.execDisable s
  | .loop => Sys2Proof.Machine.execLoop s
  | .read => Sys2Proof.Machine.execRead s
  | .send bytes => Sys2Proof.Machine.execSend bytes s
  | .bitTimeout => Sys2Proof.Machine.execBitTimeout s
  | .frameTimeout => Sys2Proof.Machine.execFrameTimeout s

end Sys2Proof.Machine
end

