-- ==== Sys2Proof/Machine/Fetch.lean ====
section
/-! DEFINITION. Taking the next operation from the input trace: spec/30_encoding.md R61, R71;
spec/60_exceptions.md R150, R151. -/

namespace Sys2Proof.Machine

/-- What the front of the input trace asks for. -/
inductive Fetched where
  /-- Run this operation in this state, its bytes taken from the trace. -/
  | run (i : Instr) (s : State)
  /-- The fetch is the whole step: an illegal opcode has raised its fault. -/
  | done (s : State)
  /-- There is no step. -/
  | stop (r : Refusal)
  deriving DecidableEq, Repr

/-- The next operation. A faulted block refuses every input (R150). An operation that is not
issuable as input, or a byte that is no operation, raises ILLEGAL_OP (R71). -/
def fetch (s : State) : Fetched :=
  match s.fault with
  | some code => .stop (.stuckAfterFault code)
  | none =>
    match decode s.input with
    | .error .noInput => .stop .noInput
    | .error .incompleteSend => .stop .incompleteInput
    | .error (.illegalOpcode b) =>
      .done (raiseFault .illegalOp b { s with input := s.input.tail })
    | .ok (i, rest) =>
      if i.wellFormed then .run i { s with input := rest }
      else .done (raiseFault .illegalOp i.opcode { s with input := rest })

/-- The input trace with the table's instruction put before it (assumption 2). -/
def placeTableWord (nbits w : Nat) (input : List Byte) : List Byte :=
  match decodeTableWord nbits w with
  | some i => encode i ++ input
  | none => tableBytes nbits w ++ input

end Sys2Proof.Machine
end

