-- ==== Sys2Proof/Machine/Step.lean ====
section
/-! DEFINITION. One step of the block: one operation of the input trace, atomic
(spec/00_scope.md R11, spec/30_encoding.md R61). -/

namespace Sys2Proof.Machine

/-- One atomic step. -/
def step (s : State) : Host.Outcome State Fault Refusal :=
  match fetch s with
  | .run i t => exec i t
  | .done t => .next t
  | .stop r => .refused r

/-- `s` with the table's instruction, its later bytes 0, as the next operation of its input. -/
def State.withFetchWord (s : State) (nbits w : Nat) : State :=
  { s with input := placeTableWord nbits w s.input }

end Sys2Proof.Machine
end

