-- ==== Sys2Proof/Machine/Sequence.lean ====
section
/-! DEFINITION. The operations on a configuration given as an argument (spec/00_scope.md R6),
sequences of operations, the pseudo-instructions of spec/30_encoding.md R74, and the example line
model of spec/92_eei_decisions.md D27. -/

namespace Sys2Proof.Machine

/-- An operation on a configuration taken as an argument (R6); `exec` is this on the hardware's
own configuration (`exec_eq_execOn`). -/
def execOn (c : Cfg) (i : Instr) (s : State) : Host.Outcome State Fault Refusal :=
  match i with
  | .edge => edgeOn c s
  | .rxTick => execRxTick s
  | .txTick => txTickOn c s
  | .setupRx => execSetupRx s
  | .setupTx => execSetupTx s
  | .enable => execEnable s
  | .disable => execDisable s
  | .loop => loopOn c s
  | .read => readOn c s
  | .send bytes => sendOn c bytes s
  | .bitTimeout => execBitTimeout s
  | .frameTimeout => execFrameTimeout s

/-- Operations one after another, each an atomic step (R11), to the first fault or refusal. -/
def runOps (c : Cfg) : List Instr → State → Host.Outcome State Fault Refusal
  | [], s => .next s
  | i :: is, s =>
    match execOn c i s with
    | .next t => runOps c is t
    | .fault e => .fault e
    | .refused r => .refused r

/-- `PULSE n` (R74). -/
def pulseOps (n : Nat) : List Instr := List.replicate n .edge

/-- `QUIET n` (R74). -/
def quietOps (n : Nat) : List Instr := List.replicate n .rxTick

/-- `RXBIT n` (R74). -/
def rxbitOps (c : Cfg) (n : Nat) : List Instr := pulseOps n ++ quietOps c.tBit

/-- `ENDFRAME` (R74). -/
def endframeOps (c : Cfg) : List Instr := quietOps (c.tFrame - c.tBit)

/-- `TXRUN n` (R74). -/
def txrunOps (n : Nat) : List Instr := List.replicate n .txTick

/-- Two blocks on one line: a sender and a receiver. -/
structure Link where
  sender : State
  receiver : State
  deriving DecidableEq, Repr

/-- What one TXTICK period delivers to the receiver under the example line model: an EDGE if the
carrier is on after the TXTICK, and one RXTICK (D27). -/
def lineEvents (carrier : Bool) : List Instr := (if carrier then [.edge] else []) ++ [.rxTick]

/-- One period of the example line model with a host that calls LOOP in each period (D27, and
program P4 of spec/95_test_vectors.md); none if either block stops. An assumption about the
environment, not about the block (assumption 19). -/
def linePeriod (c : Cfg) (l : Link) : Option Link :=
  match execOn c .txTick l.sender with
  | .next a =>
    match runOps c (lineEvents (carrierPort a) ++ [.loop]) l.receiver with
    | .next b => some ⟨a, b⟩
    | _ => none
  | _ => none

end Sys2Proof.Machine
end

