-- ==== Sys2Proof/Safety.lean ====
section
/-! DEFINITION. The terms claims are stated in: the invariants of spec/10_state.md R43, the parts
of the state a step may leave alone, the faults each operation raises (spec/60_exceptions.md R151),
and the hazards of spec/70_reset_and_hazards.md R177 to R182. -/

namespace Sys2Proof.Machine

/-- The parts of the block's state, as the frame of an operation names them. -/
inductive Part where
  /-- `rxConfigured`, `txConfigured` (R18). -/
  | setup
  /-- `rxEnabled` (R19). -/
  | enabled
  /-- `edgeCnt` and both receive timers (R20 to R22). -/
  | capture
  /-- `pulseCnt` (R23). -/
  | latch
  /-- `bitRx` (R24). -/
  | bitFlag
  /-- `streamRx` (R25). -/
  | streamFlag
  /-- `threshold`, `startFlag`, `bitIdx`, `wordIdx`, `valid` (R26 to R30). -/
  | perFrame
  /-- `rxWords` (R31). -/
  | rxBuffer
  /-- `pubWords`, `pubLen`, `pubValid` (R32). -/
  | published
  /-- `dataReady` (R33). -/
  | ready
  /-- `transmitting`, `txTimerRun` (R34, R40). -/
  | transmission
  /-- `txWords`, `txBitLen` (R35, R36). -/
  | txFrame
  /-- `txCursor`, `txRemaining`, `txNext` (R37 to R39). -/
  | scheduler
  /-- `carrierOn` (R41). -/
  | carrier
  /-- `txEnableOut` (R41). -/
  | txEnable
  /-- `fault` (R42). -/
  | faultReg
  /-- The input trace still to come (the model's own). -/
  | input
  deriving DecidableEq, Repr

/-- Two buffers read the same at every index. -/
def sameWords {w : Nat} (b b' : WordBuf w) : Prop := ∀ k, bufRead b' k = bufRead b k

/-- A part of the state is the same in `t` as in `s`. -/
def samePart (s t : State) : Part → Prop
  | .setup => t.rxConfigured = s.rxConfigured ∧ t.txConfigured = s.txConfigured
  | .enabled => t.rxEnabled = s.rxEnabled
  | .capture =>
    t.edgeCnt = s.edgeCnt ∧ t.btoRun = s.btoRun ∧ t.btoCnt = s.btoCnt ∧
      t.ftoRun = s.ftoRun ∧ t.ftoCnt = s.ftoCnt
  | .latch => t.pulseCnt = s.pulseCnt
  | .bitFlag => t.bitRx = s.bitRx
  | .streamFlag => t.streamRx = s.streamRx
  | .perFrame =>
    t.threshold = s.threshold ∧ t.startFlag = s.startFlag ∧ t.bitIdx = s.bitIdx ∧
      t.wordIdx = s.wordIdx ∧ t.valid = s.valid
  | .rxBuffer => sameWords s.rxWords t.rxWords
  | .published =>
    sameWords s.pubWords t.pubWords ∧ t.pubLen = s.pubLen ∧ t.pubValid = s.pubValid
  | .ready => t.dataReady = s.dataReady
  | .transmission => t.transmitting = s.transmitting ∧ t.txTimerRun = s.txTimerRun
  | .txFrame => sameWords s.txWords t.txWords ∧ t.txBitLen = s.txBitLen
  | .scheduler =>
    t.txCursor = s.txCursor ∧ t.txRemaining = s.txRemaining ∧ t.txNext = s.txNext
  | .carrier => t.carrierOn = s.carrierOn
  | .txEnable => t.txEnableOut = s.txEnableOut
  | .faultReg => t.fault = s.fault
  | .input => t.input = s.input

/-- Every part but these is the same in `t` as in `s`; the step's outputs (`response`, `trace`)
are no part of the block's state. -/
def UnchangedBut (parts : List Part) (s t : State) : Prop := ∀ p, p ∉ parts → samePart s t p

/-- The step's outputs: its response (R64) and the opcodes it performed (R65). -/
def Outputs (t : State) (bytes ops : List Byte) : Prop := t.response = some bytes ∧ t.trace = ops

/-- The parts RX_RESET writes (R139). -/
def resetParts : List Part := [.capture, .bitFlag, .streamFlag, .perFrame]

/-- The per-frame state is at its reset values (R101). -/
def PerFrameReset (t : State) : Prop :=
  t.threshold = 0 ∧ t.bitIdx = 0 ∧ t.wordIdx = 0 ∧ t.startFlag = true ∧ t.valid = true

/-- Everything RX_RESET writes is at its reset value (R139). -/
def ReceiveReset (t : State) : Prop :=
  t.edgeCnt = 0 ∧ t.btoRun = false ∧ t.btoCnt = 0 ∧ t.ftoRun = false ∧ t.ftoCnt = 0 ∧
    t.bitRx = false ∧ t.streamRx = false ∧ PerFrameReset t

/-- `t` is what an accepted SEND leaves of `s` (R122, R123): the packed payload and CRC Words in the
buffer, the scheduler at its start, receive off and reset, `tx_enable` raised, and nothing else. -/
def SendAccepted (c : Cfg) (bytes : List Byte) (s t : State) : Prop :=
  (∀ k (h : k < bytes.length), bufRead t.txWords k = pack9 bytes[k]) ∧
    bufRead t.txWords bytes.length = pack9 (c.crc8 bytes) ∧
    (∀ k, bytes.length < k → bufRead t.txWords k = bufRead s.txWords k) ∧
    t.txBitLen.toNat = 9 * bytes.length + 9 ∧ t.txCursor = 0 ∧ t.txRemaining = 0 ∧
    t.txNext = .start ∧ t.rxEnabled = false ∧ ReceiveReset t ∧ t.txEnableOut = true ∧
    t.transmitting = true ∧ t.txTimerRun = true ∧
    UnchangedBut (resetParts ++ [.enabled, .txFrame, .scheduler, .transmission, .txEnable]) s t

/-- `t` is what the transmit stop leaves of `s` (R128): both outputs and the timer off, and receive
on and reset where it is set up; the scheduler keeps its values. -/
def TransmitStopped (s t : State) : Prop :=
  t.carrierOn = false ∧ t.txEnableOut = false ∧ t.txTimerRun = false ∧ t.transmitting = false ∧
    if s.rxConfigured = true then
      t.rxEnabled = true ∧ ReceiveReset t ∧
        UnchangedBut (resetParts ++ [.enabled, .transmission, .carrier, .txEnable]) s t
    else UnchangedBut [.transmission, .carrier, .txEnable] s t

/-- An operation that performs RX_RESET on its way from `s` to `t` (R139): SETUP_RX, ENABLE, DISABLE,
an accepted SEND, or the TXTICK of a transmit stop on a block whose receive path is set up. -/
def ResetsReceive (i : Instr) (s t : State) : Prop :=
  i = .setupRx ∨ i = .enable ∨ i = .disable ∨
    ((∃ bytes, i = .send bytes) ∧ t.response = some [0x01]) ∨
    (i = .txTick ∧ s.txTimerRun = true ∧ t.txTimerRun = false ∧ s.rxConfigured = true)

/-- The invariant of R43, but for its clause on `rxEnabled` during a transmission, which ENABLE
and SETUP_RX may break (`Interlock`). -/
structure Inv (c : Cfg) (s : State) : Prop where
  btoRange : s.btoRun = true → 1 ≤ s.btoCnt ∧ s.btoCnt ≤ c.tBit
  ftoRange : s.ftoRun = true → 1 ≤ s.ftoCnt ∧ s.ftoCnt ≤ c.tFrame
  bitIdxRange : s.bitIdx.toNat ≤ 8
  wordIdxRange : s.wordIdx.toNat ≤ c.maxWordlen - 1
  pubLenRange : s.pubLen.toNat ≤ c.maxWordlen - 1
  startClean : s.startFlag = true → s.bitIdx = 0 ∧ s.wordIdx = 0 ∧ s.threshold = 0
  timerTransmitting : s.transmitting = s.txTimerRun
  idleOutputs : s.transmitting = false → s.carrierOn = false ∧ s.txEnableOut = false
  cursorRange : s.txCursor.toNat ≤ s.txBitLen.toNat
  bitLenRange : s.txBitLen.toNat ≤ 9 * (c.maxWordlen - 1)
  disabledQuiet : s.rxEnabled = false → s.btoRun = false ∧ s.ftoRun = false ∧ s.edgeCnt = 0

/-- The half-duplex interlock (R43, R165): receive is off during a transmission. -/
def Interlock (s : State) : Prop := s.transmitting = true → s.rxEnabled = false

/-- While the bit timer runs the frame timer runs too, restarted by the same EDGE: it has
T_FRAME - T_BIT more ticks left (R90, R91). -/
def TimersInStep (c : Cfg) (s : State) : Prop :=
  s.btoRun = true →
    s.ftoRun = true ∧ 1 ≤ s.btoCnt ∧ s.ftoCnt + c.tBit = s.btoCnt + c.tFrame

/-- Bit k of the data and CRC bits of a frame: bit `k mod 9` of Word `k div 9` (R69). -/
def frameBit (c : Cfg) (bytes : List Byte) (k : Nat) : Bool :=
  ((frameWords c bytes).getD (k / 9) 0).getLsbD (k % 9)

/-- The data and CRC bits of a frame, in the order they are sent (R69). -/
def frameBits (c : Cfg) (bytes : List Byte) : List Bool :=
  (List.range (9 * (bytes.length + 1))).map (frameBit c bytes)

/-- T_total of R127: the number of the TXTICK, counted from an accepted SEND, that stops the
transmission. -/
def transmissionTicks (c : Cfg) (bytes : List Byte) : Nat :=
  (c.startbitPulsenum + 1) +
    ((frameBits c bytes).map fun b =>
      (c.pausePulsenum + 1) + ((if b then c.onePulsenum else c.zeroPulsenum) + 1)).sum + 1

/-- `RXBIT n` and a LOOP: one burst received and decoded (R74; 95_test_vectors.md, section 2.3). -/
def burstOps (c : Cfg) (n : Nat) : List Instr := rxbitOps c n ++ [.loop]

/-- "Frame f" of 95_test_vectors.md, section 2.3, then a READ: a start burst of `startLen` edges, a
burst of `oneLen` or `zeroLen` edges for each bit, the frame end, and a LOOP after each. -/
def frameOps (c : Cfg) (startLen oneLen zeroLen : Nat) (bytes : List Byte) : List Instr :=
  burstOps c startLen ++
    ((frameBits c bytes).flatMap fun b => burstOps c (if b then oneLen else zeroLen)) ++
    (endframeOps c ++ [.loop, .read])

/-- The fault the table of R151 gives an operation in a state. -/
def faultOf (s : State) : Instr → Option FaultCode
  | .enable | .disable | .loop | .read => if s.rxConfigured then none else some .notConfigured
  | .send _ => if s.txConfigured then none else some .notConfigured
  | .setupRx => if s.rxConfigured then some .setupRepeated else none
  | .setupTx => if s.txConfigured then some .setupRepeated else none
  | .edge | .rxTick | .txTick | .bitTimeout | .frameTimeout => none

/-- The hazards the host must respect (70_reset_and_hazards.md). -/
inductive Hazard where
  /-- R177: a bit window ends while the last bit is not consumed, and that bit is lost. -/
  | bitLost
  /-- R178: a frame is closed with its last bit still pending. -/
  | frameEndBeforeBit
  /-- R178: a frame end merges with an earlier one that no LOOP consumed. -/
  | frameEndsMerged
  /-- R179: a publication overwrites a frame nobody has read. -/
  | frameOverwritten
  /-- R180: receive is enabled during a transmission. -/
  | interlockBroken
  /-- R182: a SEND during a transmission, which is rejected and not queued. -/
  | sendWhileBusy
  deriving DecidableEq, Repr

/-- The hazards an operation meets in a state. -/
def hazardsOf (s : State) : Instr → List Hazard
  | .rxTick =>
    (if s.bitRx && timerFires s.btoRun s.btoCnt then [.bitLost] else []) ++
      (if s.streamRx && timerFires s.ftoRun s.ftoCnt then [.frameEndsMerged] else [])
  | .bitTimeout => if s.bitRx then [.bitLost] else []
  | .frameTimeout => if s.streamRx then [.frameEndsMerged] else []
  | .loop =>
    (if s.streamRx && s.bitRx then [.frameEndBeforeBit] else []) ++
      (if s.streamRx && s.wordIdx != 0 && s.dataReady then [.frameOverwritten] else [])
  | .enable | .setupRx => if s.transmitting then [.interlockBroken] else []
  | .send _ => if s.transmitting then [.sendWhileBusy] else []
  | .edge | .txTick | .setupTx | .disable | .read => []

/-- A safe operation: it raises no fault and meets no hazard. -/
def safeOp (s : State) (i : Instr) : Bool := (faultOf s i).isNone && (hazardsOf s i).isEmpty

end Sys2Proof.Machine
end

