-- ==== Sys2Proof/Certificates/Slice0/Obligations.lean ====
section
/-! DEFINITION. The statements for the provers, each a rule of spec/ or what follows from one.
`UnchangedBut parts s t` is the frame: every part of the block's state but these reads in `t` as in
`s`, each word buffer at every index. -/

open Sys2Proof Sys2Proof.Machine

/-! ## Reset -/

/-- R44: every element the table gives a value has it after power-on reset. The word buffers are
unspecified there and not claimed. -/
def Obligations.ResetPutsEveryElementAtItsValue : Prop :=
  let s := State.reset
  s.rxConfigured = false ∧ s.txConfigured = false ∧ s.rxEnabled = false ∧ s.edgeCnt = 0 ∧
    s.btoRun = false ∧ s.btoCnt = 0 ∧ s.ftoRun = false ∧ s.ftoCnt = 0 ∧ s.pulseCnt = 0 ∧
    s.bitRx = false ∧ s.streamRx = false ∧ s.dataReady = false ∧ s.threshold = 0 ∧
    s.startFlag = true ∧ s.bitIdx = 0 ∧ s.wordIdx = 0 ∧ s.valid = true ∧ s.pubLen = 0 ∧
    s.pubValid = false ∧ s.transmitting = false ∧ s.txTimerRun = false ∧ s.txBitLen = 0 ∧
    s.txCursor = 0 ∧ s.txRemaining = 0 ∧ s.txNext = .start ∧ s.carrierOn = false ∧
    s.txEnableOut = false ∧ s.fault = none

/-- "Every event source is disabled at reset" (70_reset_and_hazards.md section 1, marked derived
there): the three input events change nothing of the block. -/
def Obligations.EventsDoNothingAtReset : Prop :=
  ∀ i ∈ [Instr.edge, .rxTick, .txTick],
    ∃ t, exec i State.reset = .next t ∧ Outputs t [] [i.opcode] ∧ UnchangedBut [] State.reset t

/-! ## Encoding -/

/-- R62: each row's opcode reads as its operation, only the two trace codes are not issuable, and
every other byte is no operation. The payload of the SEND row is an example. -/
def Obligations.OpcodesReadAsTheTableSays : Prop :=
  (∀ rest,
    decode (0x01 :: rest) = .ok (.edge, rest) ∧ decode (0x02 :: rest) = .ok (.rxTick, rest) ∧
      decode (0x03 :: rest) = .ok (.txTick, rest) ∧
      decode (0x10 :: rest) = .ok (.setupRx, rest) ∧
      decode (0x11 :: rest) = .ok (.setupTx, rest) ∧
      decode (0x12 :: rest) = .ok (.enable, rest) ∧
      decode (0x13 :: rest) = .ok (.disable, rest) ∧
      decode (0x20 :: rest) = .ok (.loop, rest) ∧ decode (0x21 :: rest) = .ok (.read, rest) ∧
      decode (0x22 :: 0x02 :: 0x12 :: 0x34 :: rest) = .ok (.send [0x12, 0x34], rest) ∧
      decode (0x81 :: rest) = .ok (.bitTimeout, rest) ∧
      decode (0x82 :: rest) = .ok (.frameTimeout, rest)) ∧
    (∀ i : Instr, i.issuable = false ↔ i = .bitTimeout ∨ i = .frameTimeout) ∧
    (∀ b rest,
      b ∉ ([0x01, 0x02, 0x03, 0x10, 0x11, 0x12, 0x13, 0x20, 0x21, 0x22, 0x81, 0x82] : List Byte) →
        decode (b :: rest) = .error (.illegalOpcode b))

/-- Decoding an encoded operation gives it back, whatever bytes follow: no bit of an operand is
dropped (30_encoding.md section 2). -/
def Obligations.DecodeOfEncodeIsTheOperation : Prop :=
  ∀ (i : Instr) (rest : List Byte),
    i.payloadFits = true → decode (encode i ++ rest) = .ok (i, rest)

/-- Each byte string has one meaning: what decodes is the encoding of what it decodes to
(30_encoding.md section 2). -/
def Obligations.DecodedBytesAreTheEncoding : Prop :=
  ∀ (bytes rest : List Byte) (i : Instr),
    decode bytes = .ok (i, rest) → i.payloadFits = true ∧ bytes = encode i ++ rest

/-- An opcode that is not issuable raises ILLEGAL_OP and changes nothing else of the block; a SEND
whose bytes end before its length says is refused (30_encoding.md section 5). That the illegal byte
is taken from the input is the model's choice (assumption 7), as is the input field (assumption
2). -/
def Obligations.IllegalInputIsRefusedOrFaults : Prop :=
  (∀ (s : State) (b : Byte) (rest : List Byte),
    s.fault = none → s.input = b :: rest →
      b ∉ ([0x01, 0x02, 0x03, 0x10, 0x11, 0x12, 0x13, 0x20, 0x21, 0x22] : List Byte) →
        ∃ t, step s = .next t ∧ t.fault = some .illegalOp ∧ t.response = none ∧ t.trace = [b] ∧
          t.input = rest ∧ UnchangedBut [.faultReg, .input] s t) ∧
    (∀ s : State, s.fault = none → s.input = [0x22] → step s = .refused .incompleteInput) ∧
    (∀ (s : State) (len : Byte) (payload : List Byte),
      s.fault = none → s.input = 0x22 :: len :: payload → payload.length < len.toNat →
        step s = .refused .incompleteInput)

/-- A step runs the decoded operation on the state with its bytes taken from the input trace, the
model's own field (assumption 2). -/
def Obligations.StepRunsTheDecodedOperation : Prop :=
  ∀ (s : State) (i : Instr) (rest : List Byte),
    s.fault = none → decode s.input = .ok (i, rest) → i.wellFormed = true →
      step s = exec i { s with input := rest }

/-! ## Faults -/

/-- R150: a fault is recorded, has no response and changes nothing else; once it is recorded the
block takes no further step. -/
def Obligations.FaultIsRecordedAndSticks : Prop :=
  (∀ (i : Instr) (s t : State),
    exec i s = .next t → t.fault ≠ none → t.response = none ∧ UnchangedBut [.faultReg] s t) ∧
    (∀ (s t : State), step s = .next t → t.fault ≠ none →
      t.response = none ∧ UnchangedBut [.faultReg, .input] s t) ∧
    (∀ (i : Instr) (s : State) (code : FaultCode), s.fault = some code →
      exec i s = .refused (.stuckAfterFault code)) ∧
    (∀ (s : State) (code : FaultCode), s.fault = some code →
      step s = .refused (.stuckAfterFault code))

/-- R151: the codes' values, which operation raises which code in which state, and the opcode
recorded as the trace's last input. -/
def Obligations.FaultsAreThoseOfTheTable : Prop :=
  (FaultCode.notConfigured.value = 1 ∧ FaultCode.setupRepeated.value = 2 ∧
      FaultCode.illegalOp.value = 3) ∧
    (∀ (i : Instr) (s t : State), exec i s = .next t →
      (t.fault = some .notConfigured ↔
          ((i = .enable ∨ i = .disable ∨ i = .loop ∨ i = .read) ∧ s.rxConfigured = false) ∨
            ((∃ bytes, i = .send bytes) ∧ s.txConfigured = false)) ∧
        (t.fault = some .setupRepeated ↔
          (i = .setupRx ∧ s.rxConfigured = true) ∨ (i = .setupTx ∧ s.txConfigured = true)) ∧
        t.fault ≠ some .illegalOp ∧ (t.fault ≠ none → t.trace = [i.opcode])) ∧
    (∀ (s t : State) (b : Byte) (rest : List Byte),
      step s = .next t → s.input = b :: rest →
        (t.fault = some .illegalOp ↔
          b ∉ ([0x01, 0x02, 0x03, 0x10, 0x11, 0x12, 0x13, 0x20, 0x21, 0x22] : List Byte)) ∧
        (t.fault ≠ none → t.trace = [b]))

/-- Where each command faults, it answers a next state that records the fault
(60_exceptions.md section 1). -/
def Obligations.CommandsBeforeSetupRecordTheirFault : Prop :=
  ∀ (i : Instr) (s : State) (code : FaultCode),
    s.fault = none → faultOf s i = some code →
      ∃ t, exec i s = .next t ∧ t.fault = some code ∧ t.response = none ∧
        t.trace = [i.opcode] ∧ UnchangedBut [.faultReg] s t

/-! ## Receive capture -/

/-- R90: an edge counts, modulo 2^16, and restarts both timers from full; with receive disabled
it changes nothing. -/
def Obligations.EdgeCountsAndRestartsBothTimers : Prop :=
  ∀ s : State, s.fault = none →
    ∃ t, exec .edge s = .next t ∧ Outputs t [] [0x01] ∧ UnchangedBut [.capture] s t ∧
      if s.rxEnabled = true then
        t.edgeCnt.toNat = (s.edgeCnt.toNat + 1) % 65536 ∧
          t.btoCnt = Config.cfg.tBit ∧ t.btoRun = true ∧
          t.ftoCnt = Config.cfg.tFrame ∧ t.ftoRun = true
      else samePart s t .capture

/-- R91, with the actions of R92 and R93: a running timer counts down; on its last tick it stops
and its handler's effect is performed, BIT_TIMEOUT before FRAME_TIMEOUT in the trace. A running
timer has at least one tick left (`Inv`). -/
def Obligations.RxTickCountsDownAndPerformsTimeouts : Prop :=
  ∀ s : State, s.fault = none →
    (s.btoRun = true → 1 ≤ s.btoCnt) → (s.ftoRun = true → 1 ≤ s.ftoCnt) →
      ∃ t, exec .rxTick s = .next t ∧
        Outputs t []
          ([0x02] ++ (if s.btoRun = true ∧ s.btoCnt = 1 then [0x81] else []) ++
            (if s.ftoRun = true ∧ s.ftoCnt = 1 then [0x82] else [])) ∧
        UnchangedBut [.capture, .latch, .bitFlag, .streamFlag] s t ∧
        t.btoCnt = (if s.btoRun = true then s.btoCnt - 1 else s.btoCnt) ∧
        t.ftoCnt = (if s.ftoRun = true then s.ftoCnt - 1 else s.ftoCnt) ∧
        (if s.btoRun = true ∧ s.btoCnt = 1 then
          t.pulseCnt = s.edgeCnt ∧ t.edgeCnt = 0 ∧ t.bitRx = true ∧ t.btoRun = false
         else
          t.pulseCnt = s.pulseCnt ∧ t.edgeCnt = s.edgeCnt ∧ t.bitRx = s.bitRx ∧
            t.btoRun = s.btoRun) ∧
        (if s.ftoRun = true ∧ s.ftoCnt = 1 then t.streamRx = true ∧ t.ftoRun = false
         else t.streamRx = s.streamRx ∧ t.ftoRun = s.ftoRun)

/-- R92: the bit-timeout handler latches and clears the edge counter, sets bit-received, and stops
its timer; a count not yet consumed is overwritten. -/
def Obligations.BitTimeoutLatchesThePulseCount : Prop :=
  ∀ s : State, s.fault = none →
    ∃ t, exec .bitTimeout s = .next t ∧
      UnchangedBut [.capture, .latch, .bitFlag] s t ∧
      t.pulseCnt = s.edgeCnt ∧ t.edgeCnt = 0 ∧ t.bitRx = true ∧ t.btoRun = false ∧
      t.btoCnt = s.btoCnt ∧ t.ftoRun = s.ftoRun ∧ t.ftoCnt = s.ftoCnt

/-- R93: the frame-timeout handler sets bitstream-received and stops its timer. -/
def Obligations.FrameTimeoutSignalsTheFrameEnd : Prop :=
  ∀ s : State, s.fault = none →
    ∃ t, exec .frameTimeout s = .next t ∧ UnchangedBut [.capture, .streamFlag] s t ∧
      t.streamRx = true ∧ t.ftoRun = false ∧ t.ftoCnt = s.ftoCnt ∧
      t.edgeCnt = s.edgeCnt ∧ t.btoRun = s.btoRun ∧ t.btoCnt = s.btoCnt

/-- The bit window end to end (41_rx_capture.md, "Bit window, end to end", marked derived there):
n edges and T_BIT quiet ticks latch n, and a further T_FRAME - T_BIT quiet ticks end the frame,
on every legal configuration. -/
def Obligations.BitWindowLatchesItsEdges : Prop :=
  ∀ (c : Cfg) (s : State) (n : Nat),
    c.WF → s.fault = none → s.rxEnabled = true → s.edgeCnt = 0 → 1 ≤ n → n < 65536 →
      ∃ t, runOps c (rxbitOps c n) s = .next t ∧
        UnchangedBut [.capture, .latch, .bitFlag] s t ∧
        t.pulseCnt.toNat = n ∧ t.bitRx = true ∧ t.edgeCnt = 0 ∧ t.btoRun = false ∧
        t.ftoRun = true ∧ t.ftoCnt = c.tFrame - c.tBit ∧
        ∃ u, runOps c (endframeOps c) t = .next u ∧ UnchangedBut [.capture, .streamFlag] t u ∧
          u.streamRx = true ∧ u.ftoRun = false ∧ u.edgeCnt = 0 ∧ u.btoRun = false

/-! ## Receive decode -/

/-- R100: LOOP faults before setup, changes nothing with both flags clear, with both set takes the
frame-end branch first and the bit branch on what that leaves, and leaves both flags clear. What
each branch does is stated with R101 and R103 to R106. -/
def Obligations.LoopTakesTheFrameEndFirst : Prop :=
  (∀ s : State, s.fault = none → s.rxConfigured = false →
    ∃ t, exec .loop s = .next t ∧ t.fault = some .notConfigured ∧ t.response = none ∧
      UnchangedBut [.faultReg] s t) ∧
    (∀ s : State, s.fault = none → s.rxConfigured = true → s.streamRx = false →
      s.bitRx = false →
        ∃ t, exec .loop s = .next t ∧ Outputs t [] [0x20] ∧ UnchangedBut [] s t) ∧
    (∀ s u : State, s.fault = none → s.rxConfigured = true → s.streamRx = true →
      s.bitRx = true → exec .loop { s with bitRx := false } = .next u →
        exec .loop s = exec .loop { u with bitRx := true }) ∧
    (∀ s t : State, s.rxConfigured = true → exec .loop s = .next t →
      t.streamRx = false ∧ t.bitRx = false)

/-- R101: at a frame end LOOP publishes the assembled Words with the validity the parity checks
and the CRC check give, or nothing if there is none, and resets all per-frame state. -/
def Obligations.FrameCloseChecksAndPublishes : Prop :=
  ∀ s : State, s.fault = none → s.rxConfigured = true → s.streamRx = true → s.bitRx = false →
    s.wordIdx.toNat ≤ Config.cfg.maxWordlen →
      ∃ t, exec .loop s = .next t ∧ Outputs t [] [0x20] ∧ t.streamRx = false ∧
        PerFrameReset t ∧ UnchangedBut [.streamFlag, .perFrame, .published, .ready] s t ∧
        if s.wordIdx.toNat = 0 then samePart s t .published ∧ samePart s t .ready
        else
          t.dataReady = true ∧ t.pubLen = s.wordIdx ∧
            (∀ k < s.wordIdx.toNat, bufRead t.pubWords k = bufRead s.rxWords k) ∧
            (∀ k ≥ s.wordIdx.toNat, bufRead t.pubWords k = bufRead s.pubWords k) ∧
            (t.pubValid = true ↔
              s.valid = true ∧
                bufRead s.rxWords (s.wordIdx.toNat - 1) =
                  Config.cfg.crc8
                    ((List.range (s.wordIdx.toNat - 1)).map fun k => bufRead s.rxWords k))

/-- R103: on every configuration a count below BIT_MIN_LEN is consumed by LOOP and changes nothing
else, with the start flag set or clear (`exec` is `execOn` on the hardware's configuration). -/
def Obligations.NoiseIsConsumedAndDiscarded : Prop :=
  ∀ (c : Cfg) (s : State), s.fault = none → s.rxConfigured = true → s.streamRx = false →
    s.bitRx = true → s.pulseCnt.toNat < c.bitMinLen →
      ∃ t, execOn c .loop s = .next t ∧ Outputs t [] [0x20] ∧ t.bitRx = false ∧
        UnchangedBut [.bitFlag] s t

/-- R104: with the start flag set, a count below either minimum is consumed and changes nothing
else, and any other loads the threshold and clears the flag. -/
def Obligations.StartBitLoadsTheThreshold : Prop :=
  ∀ s : State, s.fault = none → s.rxConfigured = true → s.streamRx = false → s.bitRx = true →
    s.startFlag = true →
      ∃ t, exec .loop s = .next t ∧ Outputs t [] [0x20] ∧ t.bitRx = false ∧
        UnchangedBut [.bitFlag, .perFrame] s t ∧
        t.bitIdx = s.bitIdx ∧ t.wordIdx = s.wordIdx ∧ t.valid = s.valid ∧
        if s.pulseCnt.toNat < Config.cfg.bitMinLen then
          t.threshold = s.threshold ∧ t.startFlag = true
        else if s.pulseCnt.toNat < Config.cfg.startbitMinLen then
          t.threshold = s.threshold ∧ t.startFlag = true
        else
          t.threshold.toNat =
              s.pulseCnt.toNat * Config.cfg.bitOneDivDen / Config.cfg.bitOneDivNum ∧
            t.startFlag = false

/-- R105 and the guard of R106, at the bit positions 0 to 8 (`Inv`): with the start flag clear, a
count below BIT_MIN_LEN is consumed and changes nothing else; any other is a bit, 1 iff below the threshold, which goes to
its place in the current Word, or at position 8 is checked against the Word's odd parity. -/
def Obligations.NormalBitIsAssembledOrParityChecked : Prop :=
  ∀ s : State, s.fault = none → s.rxConfigured = true → s.streamRx = false → s.bitRx = true →
    s.startFlag = false → s.bitIdx.toNat ≤ 8 → s.wordIdx.toNat < Config.cfg.maxWordlen →
      ∃ t, exec .loop s = .next t ∧ Outputs t [] [0x20] ∧ t.bitRx = false ∧
        UnchangedBut [.bitFlag, .perFrame, .rxBuffer] s t ∧
        t.threshold = s.threshold ∧ t.startFlag = false ∧
        (∀ k, k ≠ s.wordIdx.toNat → bufRead t.rxWords k = bufRead s.rxWords k) ∧
        if s.pulseCnt.toNat < Config.cfg.bitMinLen then
          samePart s t .perFrame ∧ samePart s t .rxBuffer
        else if s.bitIdx = 8 then
          samePart s t .rxBuffer ∧ t.bitIdx = 0 ∧
            t.wordIdx.toNat =
              (if s.wordIdx.toNat + 1 ≥ Config.cfg.maxWordlen then 0 else s.wordIdx.toNat + 1) ∧
            (t.valid = true ↔
              s.valid = true ∧
                (s.pulseCnt.toNat < s.threshold.toNat ↔
                  popcount (bufRead s.rxWords s.wordIdx.toNat) % 2 = 0))
        else
          bufRead t.rxWords s.wordIdx.toNat =
              ((if s.bitIdx = 0 then 0 else bufRead s.rxWords s.wordIdx.toNat) |||
                (if s.pulseCnt.toNat < s.threshold.toNat then (1 : Byte) <<< s.bitIdx.toNat
                 else 0)) ∧
            t.bitIdx = s.bitIdx + 1 ∧ t.wordIdx = s.wordIdx ∧ t.valid = s.valid

/-- A frame end with a pending bit (42_rx_decode.md, "Frame end with a pending bit", marked
derived there): the frame is closed without the bit, which is then a start-bit candidate of the
next frame. -/
def Obligations.PendingBitBecomesAStartCandidate : Prop :=
  ∀ s : State, s.fault = none → s.rxConfigured = true → s.streamRx = true → s.bitRx = true →
    s.wordIdx.toNat ≤ Config.cfg.maxWordlen →
      ∃ t u, exec .loop s = .next t ∧ exec .loop { s with bitRx := false } = .next u ∧
        samePart u t .published ∧ samePart u t .ready ∧
        t.streamRx = false ∧ t.bitRx = false ∧ t.bitIdx = 0 ∧ t.wordIdx = 0 ∧ t.valid = true ∧
        UnchangedBut [.streamFlag, .bitFlag, .perFrame, .published, .ready] s t ∧
        if s.pulseCnt.toNat < max Config.cfg.bitMinLen Config.cfg.startbitMinLen then
          t.threshold = 0 ∧ t.startFlag = true
        else
          t.threshold.toNat =
              s.pulseCnt.toNat * Config.cfg.bitOneDivDen / Config.cfg.bitOneDivNum ∧
            t.startFlag = false

/-- A frame that fills the buffer (42_rx_decode.md, the overflow guard's corner cases, marked
derived there): the parity bit of Word MAX_WORDLEN-1 wraps the word index to 0, and a frame end
then publishes nothing. -/
def Obligations.FullBufferWrapsAndPublishesNothing : Prop :=
  ∀ s : State, s.fault = none → s.rxConfigured = true → s.streamRx = false → s.bitRx = true →
    s.startFlag = false → s.bitIdx = 8 → s.wordIdx.toNat = Config.cfg.maxWordlen - 1 →
    Config.cfg.bitMinLen ≤ s.pulseCnt.toNat →
      ∃ t u, exec .loop s = .next t ∧ t.wordIdx = 0 ∧
        exec .loop { t with streamRx := true } = .next u ∧
        samePart s u .published ∧ samePart s u .ready

/-- R108: READ faults before setup, returns a ready frame once, and else says there is none. -/
def Obligations.ReadReturnsTheFrameOnce : Prop :=
  (∀ s : State, s.fault = none → s.rxConfigured = false →
    ∃ t, exec .read s = .next t ∧ t.fault = some .notConfigured ∧ t.response = none ∧
      UnchangedBut [.faultReg] s t) ∧
    (∀ s : State, s.fault = none → s.rxConfigured = true → s.dataReady = false →
      ∃ t, exec .read s = .next t ∧ Outputs t [0x00] [0x21] ∧ UnchangedBut [] s t) ∧
    (∀ s : State, s.fault = none → s.rxConfigured = true → s.dataReady = true →
      s.pubLen.toNat ≤ Config.cfg.maxWordlen →
        ∃ t u, exec .read s = .next t ∧
          Outputs t
            ([0x01, s.pubLen, if s.pubValid = true then 0x01 else 0x00] ++
              (List.range s.pubLen.toNat).map fun k => bufRead s.pubWords k) [0x21] ∧
          t.dataReady = false ∧ UnchangedBut [.ready] s t ∧
          exec .read t = .next u ∧ Outputs u [0x00] [0x21] ∧ UnchangedBut [] t u)

/-- The validity flag is sticky (R30: "Once set false within a frame, never reset back to true for
that frame"): no operation sets it again unless it resets the per-frame state. -/
def Obligations.InvalidFrameStaysInvalid : Prop :=
  ∀ (i : Instr) (s t : State),
    exec i s = .next t → s.valid = false → t.valid = true → PerFrameReset t ∨
      (i = .loop ∧ s.streamRx = true ∧ s.bitRx = true ∧ t.bitIdx = 0 ∧ t.wordIdx = 0)

/-- LOOP reads the latched count only with bit-received set (10_state.md, the latched Pulse Count,
marked derived there). -/
def Obligations.LoopIgnoresAnUnflaggedPulseCount : Prop :=
  ∀ (s t : State) (v : Count),
    s.bitRx = false → exec .loop s = .next t →
      exec .loop { s with pulseCnt := v } = .next { t with pulseCnt := v }

/-- A frame is received as sent (95_test_vectors.md W5 and section 2.3, with the spacing of
70_reset_and_hazards.md R181): on every legal configuration, bursts of well-spaced widths, a start
burst before them and a LOOP after each give READ the payload, its CRC and a set validity flag. -/
def Obligations.WellSpacedFrameIsReceivedAsSent : Prop :=
  ∀ (c : Cfg) (s : State) (startLen oneLen zeroLen : Nat) (bytes : List Byte),
    c.WF → bytes.length < c.maxWordlen - 1 →
    startLen < 65536 → c.startbitMinLen ≤ startLen → c.bitMinLen ≤ startLen →
    1 ≤ oneLen → c.bitMinLen ≤ oneLen →
    oneLen < startLen * c.bitOneDivDen / c.bitOneDivNum →
    startLen * c.bitOneDivDen / c.bitOneDivNum ≤ zeroLen → zeroLen < 65536 →
    s.fault = none → s.rxConfigured = true → s.rxEnabled = true → s.edgeCnt = 0 →
    s.bitRx = false → s.streamRx = false → PerFrameReset s →
      ∃ t, runOps c (frameOps c startLen oneLen zeroLen bytes) s = .next t ∧
        t.response =
          some ([0x01, BitVec.ofNat 8 (bytes.length + 1), 0x01] ++ bytes ++ [c.crc8 bytes])

/-! ## Transmit -/

/-- R120: SEND faults before setup; else it answers 0 and changes nothing where it is busy or too
long, and answers 1 and does what an accepted SEND does where not. -/
def Obligations.SendAnswersWhetherAccepted : Prop :=
  ∀ (bytes : List Byte) (s : State), s.fault = none →
    ∃ t, exec (.send bytes) s = .next t ∧
      if s.txConfigured = false then
        t.fault = some .notConfigured ∧ t.response = none ∧ UnchangedBut [.faultReg] s t
      else if s.transmitting = true ∨ bytes.length ≥ Config.cfg.maxWordlen - 1 then
        Outputs t [0x00] [0x22] ∧ UnchangedBut [] s t
      else Outputs t [0x01] [0x22] ∧ SendAccepted Config.cfg bytes s t

/-- R121: a SEND that is busy or too long is rejected and changes nothing. -/
def Obligations.RejectedSendChangesNothing : Prop :=
  ∀ (bytes : List Byte) (s : State), s.fault = none → s.txConfigured = true →
    (s.transmitting = true ∨ bytes.length ≥ Config.cfg.maxWordlen - 1) →
      ∃ t, exec (.send bytes) s = .next t ∧ Outputs t [0x00] [0x22] ∧ UnchangedBut [] s t

/-- R122 and R123: an accepted SEND fills the buffer with the packed payload and CRC Words, sets
the scheduler to its start, turns receive off and resets it, and starts the transmission. -/
def Obligations.AcceptedSendLoadsTheFrame : Prop :=
  ∀ (bytes : List Byte) (s : State), s.fault = none → s.txConfigured = true →
    s.transmitting = false → bytes.length < Config.cfg.maxWordlen - 1 →
      ∃ t, exec (.send bytes) s = .next t ∧ Outputs t [0x01] [0x22] ∧
        SendAccepted Config.cfg bytes s t

/-- R124 and R125: with the timer stopped TXTICK changes nothing; with ticks remaining it takes one
off and does nothing else. -/
def Obligations.TxTickCountsDown : Prop :=
  (∀ s : State, s.fault = none → s.txTimerRun = false →
    ∃ t, exec .txTick s = .next t ∧ Outputs t [] [0x03] ∧ UnchangedBut [] s t) ∧
    (∀ s : State, s.fault = none → s.txTimerRun = true → s.txRemaining ≠ 0 →
      ∃ t, exec .txTick s = .next t ∧ Outputs t [] [0x03] ∧
        UnchangedBut [.scheduler] s t ∧ t.txRemaining.toNat = s.txRemaining.toNat - 1 ∧
        t.txCursor = s.txCursor ∧ t.txNext = s.txNext)

/-- R126: the load phase stops (R128) at the end of the frame or the buffer, and else loads the symbol
`txNext` names; only a data burst advances the cursor. -/
def Obligations.LoadPhaseEmitsTheNextSymbol : Prop :=
  ∀ s : State, s.fault = none → s.txTimerRun = true → s.txRemaining = 0 →
    ∃ t, exec .txTick s = .next t ∧ Outputs t [] [0x03] ∧
      if s.txCursor.toNat ≥ s.txBitLen.toNat ∨
          s.txCursor.toNat ≥ 9 * Config.cfg.maxWordlen then
        TransmitStopped s t
      else
        UnchangedBut [.scheduler, .carrier] s t ∧
          match s.txNext with
          | .start =>
            t.carrierOn = true ∧ t.txRemaining.toNat = Config.cfg.startbitPulsenum ∧
              t.txCursor = s.txCursor ∧ t.txNext = .pause
          | .data =>
            t.carrierOn = true ∧
              t.txRemaining.toNat =
                (if (bufRead s.txWords (s.txCursor.toNat / 9)).getLsbD (s.txCursor.toNat % 9)
                  = true then Config.cfg.onePulsenum else Config.cfg.zeroPulsenum) ∧
              t.txCursor.toNat = s.txCursor.toNat + 1 ∧ t.txNext = .pause
          | .pause =>
            t.carrierOn = false ∧ t.txRemaining.toNat = Config.cfg.pausePulsenum ∧
              t.txCursor = s.txCursor ∧ t.txNext = .data

/-- R128: the transmit stop turns both outputs and the timer off and, where the receive path is
set up, enables and resets receive; the scheduler keeps its values. -/
def Obligations.TransmitStopReenablesReceive : Prop :=
  ∀ s : State, s.fault = none → s.txTimerRun = true → s.txRemaining = 0 →
    (s.txCursor.toNat ≥ s.txBitLen.toNat ∨ s.txCursor.toNat ≥ 9 * Config.cfg.maxWordlen) →
      ∃ t, exec .txTick s = .next t ∧ Outputs t [] [0x03] ∧ TransmitStopped s t

/-- T_total (43_tx.md, symbol durations, marked derived there): on every legal configuration a
transmission goes on for exactly the ticks the formula gives, and its last tick stops it. -/
def Obligations.TransmissionLastsItsTicks : Prop :=
  ∀ (c : Cfg) (bytes : List Byte) (s u : State),
    c.WF → s.txConfigured = true → s.transmitting = false → bytes.length < c.maxWordlen - 1 →
    execOn c (.send bytes) s = .next u →
      (∀ n < transmissionTicks c bytes,
        ∃ t, runOps c (txrunOps n) u = .next t ∧ t.transmitting = true ∧
          t.txEnableOut = true) ∧
        ∃ t, runOps c (txrunOps (transmissionTicks c bytes)) u = .next t ∧
          t.transmitting = false ∧ t.carrierOn = false ∧ t.txEnableOut = false

/-! ## Control -/

/-- R135: the first SETUP_RX sets up, enables and resets receive; a second one faults. -/
def Obligations.SetupRxEnablesReceiveOnce : Prop :=
  ∀ s : State, s.fault = none →
    ∃ t, exec .setupRx s = .next t ∧
      if s.rxConfigured = true then
        t.fault = some .setupRepeated ∧ t.response = none ∧ UnchangedBut [.faultReg] s t
      else
        Outputs t [] [0x10] ∧ t.rxConfigured = true ∧ t.txConfigured = s.txConfigured ∧
          t.rxEnabled = true ∧ ReceiveReset t ∧
          UnchangedBut (resetParts ++ [.setup, .enabled]) s t

/-- R136: the first SETUP_TX sets up transmit with its timer stopped and both outputs low; a
second one faults. -/
def Obligations.SetupTxStopsTheTimerOnce : Prop :=
  ∀ s : State, s.fault = none →
    ∃ t, exec .setupTx s = .next t ∧
      if s.txConfigured = true then
        t.fault = some .setupRepeated ∧ t.response = none ∧ UnchangedBut [.faultReg] s t
      else
        Outputs t [] [0x11] ∧ t.txConfigured = true ∧ t.rxConfigured = s.rxConfigured ∧
          t.carrierOn = false ∧ t.txEnableOut = false ∧ t.transmitting = false ∧
          t.txTimerRun = false ∧ UnchangedBut [.setup, .transmission, .carrier, .txEnable] s t

/-- R137: ENABLE turns receive on and resets it, on or off before; before setup it faults. -/
def Obligations.EnableResetsReceive : Prop :=
  ∀ s : State, s.fault = none →
    ∃ t, exec .enable s = .next t ∧
      if s.rxConfigured = false then
        t.fault = some .notConfigured ∧ t.response = none ∧ UnchangedBut [.faultReg] s t
      else
        Outputs t [] [0x12] ∧ t.rxEnabled = true ∧ ReceiveReset t ∧
          UnchangedBut (resetParts ++ [.enabled]) s t

/-- R138: DISABLE turns receive off and resets it; before setup it faults. -/
def Obligations.DisableResetsReceive : Prop :=
  ∀ s : State, s.fault = none →
    ∃ t, exec .disable s = .next t ∧
      if s.rxConfigured = false then
        t.fault = some .notConfigured ∧ t.response = none ∧ UnchangedBut [.faultReg] s t
      else
        Outputs t [] [0x13] ∧ t.rxEnabled = false ∧ ReceiveReset t ∧
          UnchangedBut (resetParts ++ [.enabled]) s t

/-- R139: the receive reset, wherever it is performed, puts its elements at their values and
touches neither the latched count, the buffers nor an unread frame. -/
def Obligations.ReceiveResetLeavesTheUnreadFrame : Prop :=
  ∀ (i : Instr) (s t : State),
    exec i s = .next t → t.fault = none → ResetsReceive i s t →
      ReceiveReset t ∧ samePart s t .latch ∧ samePart s t .rxBuffer ∧
        samePart s t .published ∧ samePart s t .ready

/-! ## Bit codec -/

/-- R80: `parity_odd` is 1 exactly for a byte with an even number of set bits. -/
def Obligations.ParityOddCompletesToOdd : Prop :=
  (∀ b : Byte, parityOdd b = true ↔ popcount b % 2 = 0) ∧
    parityOdd 0x00 = true ∧ parityOdd 0xFF = true ∧ parityOdd 0x80 = false ∧
    parityOdd 0x03 = true ∧ parityOdd 0x01 = false

/-- R86: the transmit Word holds the byte in bits 7..0 and its parity bit in bit 8. -/
def Obligations.PackedWordHoldsByteAndParity : Prop :=
  (∀ b : Byte, (pack9 b).toNat = b.toNat + (if parityOdd b = true then 256 else 0)) ∧
    pack9 0x00 = 0x100 ∧ pack9 0x01 = 0x001 ∧ pack9 0x03 = 0x103 ∧ pack9 0xFF = 0x1FF

/-- The nine bits of a transmit Word always hold an odd number of ones (30_encoding.md section 3,
marked derived there). -/
def Obligations.PackedWordHasOddParity : Prop := ∀ b : Byte, popcount (pack9 b) % 2 = 1

/-- R84: the threshold is the count over the divisor, rounded down, and never above the count, on
every legal configuration. -/
def Obligations.ThresholdIsTheFlooredQuotient : Prop :=
  ∀ (c : Cfg) (cnt : Count), c.WF →
    (thresholdOf c cnt).toNat = cnt.toNat * c.bitOneDivDen / c.bitOneDivNum ∧
      (thresholdOf c cnt).toNat ≤ cnt.toNat ∧
      (cnt.toNat * c.bitOneDivDen < c.bitOneDivNum →
        thresholdOf c cnt = 0 ∧ ∀ x, classify x (thresholdOf c cnt) = false)

/-- R83 and R85: the two burst lengths, the shorter for 1, and the classifier's boundary. -/
def Obligations.ShorterBurstsEncodeOne : Prop :=
  (∀ c : Cfg, c.WF →
    (pulseLengthForBit c true).toNat = c.onePulsenum ∧
      (pulseLengthForBit c false).toNat = c.zeroPulsenum ∧
      (pulseLengthForBit c true).toNat < (pulseLengthForBit c false).toNat) ∧
    (∀ cnt threshold : Count,
      classify cnt threshold = true ↔ cnt.toNat < threshold.toNat)

/-- The class of a pulse count, by the start flag, the minima and the threshold (the condition
columns of the decode map, 30_encoding.md section 4; LOOP takes its case from this class). -/
def Obligations.PulseCountClasses : Prop :=
  ∀ (c : Cfg) (thr cnt : Count),
    (∀ f, cnt.toNat < c.bitMinLen → pulseClass c f thr cnt = .noise) ∧
      (c.bitMinLen ≤ cnt.toNat → cnt.toNat < c.startbitMinLen →
        pulseClass c true thr cnt = .startNoise) ∧
      (max c.bitMinLen c.startbitMinLen ≤ cnt.toNat → pulseClass c true thr cnt = .startBit) ∧
      (c.bitMinLen ≤ cnt.toNat → cnt.toNat < thr.toNat → pulseClass c false thr cnt = .one) ∧
      (c.bitMinLen ≤ cnt.toNat → thr.toNat ≤ cnt.toNat → pulseClass c false thr cnt = .zero)

/-! ## The whole machine -/

/-- The invariant of R43 holds at reset, with the interlock and the timers in step. -/
def Obligations.ResetMeetsTheInvariants : Prop :=
  Inv Config.cfg State.reset ∧ Interlock State.reset ∧ TimersInStep Config.cfg State.reset

/-- Every step keeps the invariant of R43 (marked derived there; its clause on `rxEnabled` during
a transmission is `InterlockHoldsUnlessReceiveIsEnabled`). -/
def Obligations.StepKeepsTheInvariant : Prop :=
  ∀ s t : State, Inv Config.cfg s → step s = .next t → Inv Config.cfg t

/-- Every step keeps the two receive timers in step, so they never expire on one tick
(41_rx_capture.md, marked derived there). -/
def Obligations.TimersNeverExpireTogether : Prop :=
  (∀ s t : State, TimersInStep Config.cfg s → step s = .next t → TimersInStep Config.cfg t) ∧
    ∀ s : State, TimersInStep Config.cfg s →
      ¬(timerFires s.btoRun s.btoCnt = true ∧ timerFires s.ftoRun s.ftoCnt = true)

/-- Every step keeps the word buffers in their canonical form and their listed indices below
MAX_WORDLEN (the form is the model's, assumption 9; the range is 20_memory.md section 1). -/
def Obligations.StepKeepsTheBuffers : Prop :=
  ∀ s t : State, Memory.wf s → Memory.inRange Config.cfg s → step s = .next t →
    Memory.wf t ∧ Memory.inRange Config.cfg t

/-- The word buffers are canonical and in range at reset. -/
def Obligations.ResetBuffersAreCanonical : Prop :=
  Memory.wf State.reset ∧ Memory.inRange Config.cfg State.reset

/-- No rule reaches an index outside the buffers (20_memory.md section 1, marked derived there).
From the invariant no step and no operation ends in the assertion of LOOP and READ (assumption 10);
no operation writes an element outside any buffer; and, since SEND and TXTICK carry no assertion,
the Words of an accepted SEND fit in the buffer, and a TXTICK that loads a data burst (the one load
that moves the cursor) reads a Word of the buffer. -/
def Obligations.NoStepLeavesTheBuffers : Prop :=
  (∀ s : State, Inv Config.cfg s → (∀ e, step s ≠ .fault e) ∧ ∀ i e, exec i s ≠ .fault e) ∧
    (∀ (i : Instr) (s t : State) (k : Nat),
      exec i s = .next t → Config.cfg.maxWordlen ≤ k →
        bufRead t.rxWords k = bufRead s.rxWords k ∧
          bufRead t.pubWords k = bufRead s.pubWords k ∧
          bufRead t.txWords k = bufRead s.txWords k) ∧
    (∀ (bytes : List Byte) (s t : State),
      exec (.send bytes) s = .next t → t.response = some [0x01] →
        bytes.length + 1 ≤ Config.cfg.maxWordlen) ∧
    ∀ s t : State,
      exec .txTick s = .next t → t.txCursor ≠ s.txCursor →
        s.txCursor.toNat / 9 < Config.cfg.maxWordlen

/-- The half-duplex interlock (60_exceptions.md section 5, marked derived there): every operation
but ENABLE and SETUP_RX keeps receive off during a transmission, and no edge is counted then. -/
def Obligations.InterlockHoldsUnlessReceiveIsEnabled : Prop :=
  (∀ (i : Instr) (s t : State),
    i ≠ .enable → i ≠ .setupRx → Interlock s → exec i s = .next t → Interlock t) ∧
    ∀ s t : State, Interlock s → s.transmitting = true → exec .edge s = .next t →
      UnchangedBut [] s t

/-- R18: the setup flags are 0 at reset, set only by their setup, and never cleared. -/
def Obligations.SetupFlagsAreSetOnlyBySetup : Prop :=
  (State.reset.rxConfigured = false ∧ State.reset.txConfigured = false) ∧
    ∀ (i : Instr) (s t : State), exec i s = .next t →
      (t.rxConfigured = true ↔ s.rxConfigured = true ∨ i = .setupRx) ∧
        (t.txConfigured = true ↔ s.txConfigured = true ∨ i = .setupTx)

/-- Who writes what (10_state.md section 3 and the table of 20_memory.md section 5): an element of
the table, or of the frame being received or sent, that differs after an operation names the
operations that may have written it. The last clause is about the model's own input field
(assumption 2): no operation writes it, only the fetch. -/
def Obligations.EachElementHasItsWriters : Prop :=
  ∀ (i : Instr) (s t : State), exec i s = .next t →
    (t.edgeCnt ≠ s.edgeCnt →
        i = .edge ∨ i = .rxTick ∨ i = .bitTimeout ∨ ResetsReceive i s t) ∧
      (t.pulseCnt ≠ s.pulseCnt → i = .rxTick ∨ i = .bitTimeout) ∧
      (t.bitRx = true → s.bitRx = false → i = .rxTick ∨ i = .bitTimeout) ∧
      (t.bitRx = false → s.bitRx = true → i = .loop ∨ ResetsReceive i s t) ∧
      (t.streamRx = true → s.streamRx = false → i = .rxTick ∨ i = .frameTimeout) ∧
      (t.streamRx = false → s.streamRx = true → i = .loop ∨ ResetsReceive i s t) ∧
      (¬samePart s t .rxBuffer → i = .loop) ∧
      (t.startFlag = false → s.startFlag = true → i = .loop) ∧
      (¬samePart s t .published → i = .loop) ∧
      (t.dataReady = true → s.dataReady = false → i = .loop) ∧
      (t.dataReady = false → s.dataReady = true → i = .read) ∧
      (¬samePart s t .txFrame → ∃ bytes, i = .send bytes) ∧
      (¬samePart s t .scheduler → i = .txTick ∨ ∃ bytes, i = .send bytes) ∧
      (t.transmitting = true → s.transmitting = false → ∃ bytes, i = .send bytes) ∧
      (t.transmitting = false → s.transmitting = true → i = .txTick ∨ i = .setupTx) ∧
      t.input = s.input

/-- An edge commutes with a LOOP, in every part of the block's state (60_exceptions.md section 3,
handler return and nesting, marked derived there). -/
def Obligations.EdgeCommutesWithLoop : Prop :=
  ∀ s a b : State, s.rxConfigured = true → exec .edge s = .next a → exec .loop s = .next b →
    ∃ a' b', exec .loop a = .next a' ∧ exec .edge b = .next b' ∧ UnchangedBut [] a' b'
end

