-- ==== Sys2Proof/Laws/Buffers.lean ====
section
/-! SUPPORT. The laws of the word buffers: a read after a write, a block write and a block read,
and that every write keeps the canonical form and the index range. -/

namespace Sys2Proof.Machine

variable {w : Nat}

theorem bufRead_filter_ne (b : WordBuf w) (i j : Nat) (h : j ≠ i) :
    bufRead (b.filter (fun p => p.1 != i)) j = bufRead b j := by
  induction b with
  | nil => rfl
  | cons p b ih =>
    obtain ⟨a, x⟩ := p
    by_cases ha : a = i
    · subst ha
      simp [bufRead, ih, h.symm]
    · simp [ha, bufRead, ih]

theorem bufRead_filter_self (b : WordBuf w) (i : Nat) :
    bufRead (b.filter (fun p => p.1 != i)) i = 0 := by
  induction b with
  | nil => rfl
  | cons p b ih =>
    obtain ⟨a, x⟩ := p
    by_cases ha : a = i
    · simpa [ha] using ih
    · simp [ha, bufRead, ih]

theorem bufRead_bufInsert_ne (b : WordBuf w) (i j : Nat) (v : BitVec w) (h : j ≠ i) :
    bufRead (bufInsert b i v) j = bufRead b j := by
  induction b with
  | nil => simp [bufInsert, bufRead, h.symm]
  | cons p b ih =>
    obtain ⟨a, x⟩ := p
    unfold bufInsert
    split
    · simp [bufRead, h.symm]
    · simp [bufRead, ih]

theorem bufRead_bufInsert_self (b : WordBuf w) (i : Nat) (v : BitVec w)
    (h : ∀ p ∈ b, p.1 ≠ i) : bufRead (bufInsert b i v) i = v := by
  induction b with
  | nil => simp [bufInsert, bufRead]
  | cons p b ih =>
    obtain ⟨a, x⟩ := p
    have ha : a ≠ i := h (a, x) (by simp)
    unfold bufInsert
    split
    · simp [bufRead]
    · simp [bufRead, ha, ih (fun p hp => h p (by simp [hp]))]

/-- A read after a write to the same index gives the value written. -/
@[simp] theorem bufRead_bufWrite_self (b : WordBuf w) (i : Nat) (v : BitVec w) :
    bufRead (bufWrite b i v) i = v := by
  unfold bufWrite
  split
  · rw [bufRead_filter_self]
    exact Eq.symm ‹_›
  · exact bufRead_bufInsert_self _ _ _ (by simp)

/-- A write leaves every other index alone. -/
theorem bufRead_bufWrite_ne (b : WordBuf w) (i j : Nat) (v : BitVec w) (h : j ≠ i) :
    bufRead (bufWrite b i v) j = bufRead b j := by
  unfold bufWrite
  split
  · exact bufRead_filter_ne b i j h
  · rw [bufRead_bufInsert_ne _ _ _ _ h, bufRead_filter_ne b i j h]

theorem bufRead_bufWrite (b : WordBuf w) (i j : Nat) (v : BitVec w) :
    bufRead (bufWrite b i v) j = if j = i then v else bufRead b j := by
  split
  · subst_vars
    exact bufRead_bufWrite_self b _ v
  · exact bufRead_bufWrite_ne b i j v ‹_›

/-- A block write puts element k of the list at `start + k` and leaves every other index alone. -/
theorem bufRead_bufWriteAll (vs : List (BitVec w)) (b : WordBuf w) (start j : Nat) :
    bufRead (bufWriteAll b start vs) j =
      if h : start ≤ j ∧ j < start + vs.length then vs[j - start] else bufRead b j := by
  induction vs generalizing b start with
  | nil => simp [bufWriteAll]
  | cons v vs ih =>
    rw [bufWriteAll, ih, bufRead_bufWrite]
    by_cases h1 : start + 1 ≤ j ∧ j < start + 1 + vs.length
    · have h2 : start ≤ j ∧ j < start + (v :: vs).length := by
        simp only [List.length_cons]; omega
      rw [dif_pos h1, dif_pos h2]
      have : j - start = (j - (start + 1)) + 1 := by omega
      simp [this]
    · rw [dif_neg h1]
      by_cases h3 : j = start
      · subst h3
        simp
      · rw [if_neg h3, dif_neg]
        simp only [List.length_cons]; omega

@[simp] theorem bufReadAll_length (b : WordBuf w) (n : Nat) : (bufReadAll b n).length = n := by
  simp [bufReadAll]

@[simp] theorem bufReadAll_getElem (b : WordBuf w) (n k : Nat)
    (h : k < (bufReadAll b n).length) : (bufReadAll b n)[k] = bufRead b k := by
  simp [bufReadAll]

/-- Copying the first `n` elements of one buffer to another. -/
theorem bufRead_copy (b b' : WordBuf w) (n j : Nat) :
    bufRead (bufWriteAll b 0 (bufReadAll b' n)) j =
      if j < n then bufRead b' j else bufRead b j := by
  rw [bufRead_bufWriteAll]
  by_cases h : j < n
  · rw [dif_pos (by simpa using h), if_pos h]
    simp
  · rw [dif_neg (by simpa using h), if_neg h]

theorem mem_bufInsert (b : WordBuf w) (i : Nat) (v : BitVec w) (p : Nat × BitVec w) :
    p ∈ bufInsert b i v ↔ p = (i, v) ∨ p ∈ b := by
  induction b with
  | nil => simp [bufInsert]
  | cons q b ih =>
    obtain ⟨a, x⟩ := q
    unfold bufInsert
    split
    · simp
    · simp only [List.mem_cons, ih]
      tauto

theorem bufInsert_pairwise (b : WordBuf w) (i : Nat) (v : BitVec w)
    (hb : b.Pairwise (fun p q => p.1 < q.1)) (hi : ∀ p ∈ b, p.1 ≠ i) :
    (bufInsert b i v).Pairwise (fun p q => p.1 < q.1) := by
  induction b with
  | nil => simp [bufInsert]
  | cons q b ih =>
    obtain ⟨a, x⟩ := q
    rw [List.pairwise_cons] at hb
    have ha : a ≠ i := hi (a, x) (by simp)
    unfold bufInsert
    split
    · rename_i hlt
      refine List.pairwise_cons.2 ⟨?_, List.pairwise_cons.2 hb⟩
      intro p hp
      rcases List.mem_cons.1 hp with rfl | hp
      · exact hlt
      · exact Nat.lt_trans hlt (hb.1 p hp)
    · rename_i hge
      refine List.pairwise_cons.2 ⟨?_, ih hb.2 (fun p hp => hi p (by simp [hp]))⟩
      intro p hp
      rcases (mem_bufInsert b i v p).1 hp with rfl | hp
      · change a < i
        omega
      · exact hb.1 p hp

/-- Every element a write leaves listed was listed before or is the one written. -/
theorem mem_bufWrite (b : WordBuf w) (i : Nat) (v : BitVec w) (p : Nat × BitVec w)
    (hp : p ∈ bufWrite b i v) : p = (i, v) ∨ p ∈ b := by
  unfold bufWrite at hp
  split at hp
  · exact .inr (List.mem_filter.1 hp).1
  · rcases (mem_bufInsert _ _ _ _).1 hp with h | h
    · exact .inl h
    · exact .inr (List.mem_filter.1 h).1

/-- A write keeps the canonical form. -/
theorem bufWrite_wf (b : WordBuf w) (i : Nat) (v : BitVec w) (hb : bufWf b) :
    bufWf (bufWrite b i v) := by
  unfold bufWrite
  split
  · exact ⟨hb.1.filter _, fun p hp => hb.2 p (List.mem_filter.1 hp).1⟩
  · rename_i hv
    refine ⟨bufInsert_pairwise _ _ _ (hb.1.filter _) (by simp), fun p hp => ?_⟩
    rcases (mem_bufInsert _ _ _ _).1 hp with rfl | h
    · exact hv
    · exact hb.2 p (List.mem_filter.1 h).1

/-- A block write keeps the canonical form. -/
theorem bufWriteAll_wf (vs : List (BitVec w)) (b : WordBuf w) (start : Nat) (hb : bufWf b) :
    bufWf (bufWriteAll b start vs) := by
  induction vs generalizing b start with
  | nil => exact hb
  | cons v vs ih => exact ih _ _ (bufWrite_wf b start v hb)

/-- A write inside the range keeps every listed index inside it. -/
theorem bufWrite_below (n : Nat) (b : WordBuf w) (i : Nat) (v : BitVec w)
    (hb : bufBelow n b) (hi : i < n) : bufBelow n (bufWrite b i v) := by
  intro p hp
  rcases mem_bufWrite b i v p hp with rfl | h
  · exact hi
  · exact hb p h

/-- A block write inside the range keeps every listed index inside it. -/
theorem bufWriteAll_below (n : Nat) (vs : List (BitVec w)) (b : WordBuf w) (start : Nat)
    (hb : bufBelow n b) (hs : start + vs.length ≤ n) : bufBelow n (bufWriteAll b start vs) := by
  induction vs generalizing b start with
  | nil => exact hb
  | cons v vs ih =>
    simp only [List.length_cons] at hs
    exact ih _ _ (bufWrite_below n b start v hb (by omega)) (by omega)

/-- Two canonical buffers that read the same are the same data. -/
theorem bufWf_ext (b b' : WordBuf w) (hb : bufWf b) (hb' : bufWf b')
    (h : ∀ k, bufRead b k = bufRead b' k) : b = b' := by
  have below : ∀ (b : WordBuf w) (k : Nat), (∀ p ∈ b, k < p.1) → bufRead b k = 0 := by
    intro b k hk
    induction b with
    | nil => rfl
    | cons p b ih =>
      obtain ⟨a, x⟩ := p
      have : k < a := hk (a, x) (by simp)
      simp [bufRead, Nat.ne_of_gt this, ih (fun p hp => hk p (by simp [hp]))]
  induction b generalizing b' with
  | nil =>
    cases b' with
    | nil => rfl
    | cons q b' =>
      have := h q.1
      simp [bufRead] at this
      exact absurd this.symm (hb'.2 q (by simp))
  | cons p b ih =>
    obtain ⟨a, x⟩ := p
    have hx : x ≠ 0 := hb.2 (a, x) (by simp)
    have hb1 := List.pairwise_cons.1 hb.1
    cases b' with
    | nil =>
      have := h a
      simp [bufRead] at this
      exact absurd this hx
    | cons q b' =>
      obtain ⟨a', x'⟩ := q
      have hx' : x' ≠ 0 := hb'.2 (a', x') (by simp)
      have hb1' := List.pairwise_cons.1 hb'.1
      have haa : a = a' := by
        rcases Nat.lt_trichotomy a a' with hlt | he | hlt
        · have := h a
          rw [below ((a', x') :: b') a] at this
          · simp [bufRead] at this
            exact absurd this hx
          · intro p hp
            rcases List.mem_cons.1 hp with rfl | hp
            · exact hlt
            · exact Nat.lt_trans hlt (hb1'.1 p hp)
        · exact he
        · have := h a'
          rw [below ((a, x) :: b) a'] at this
          · simp [bufRead] at this
            exact absurd this.symm hx'
          · intro p hp
            rcases List.mem_cons.1 hp with rfl | hp
            · exact hlt
            · exact Nat.lt_trans hlt (hb1.1 p hp)
      subst haa
      have hxx : x = x' := by simpa [bufRead] using h a
      subst hxx
      congr 1
      refine ih b' ⟨hb1.2, fun p hp => hb.2 p (by simp [hp])⟩
        ⟨hb1'.2, fun p hp => hb'.2 p (by simp [hp])⟩ ?_
      intro k
      by_cases hk : a = k
      · subst hk
        rw [below b a hb1.1, below b' a hb1'.1]
      · simpa [bufRead, hk] using h k

end Sys2Proof.Machine
end

