-- ==== Sys2Proof/Laws/Decode.lean ====
section
/-! SUPPORT. What the decoder reads from each opcode byte, so that no proof runs the table. -/

namespace Sys2Proof

/-- The opcodes of R62. -/
def knownOpcodes : List Byte :=
  [0x01, 0x02, 0x03, 0x10, 0x11, 0x12, 0x13, 0x20, 0x21, 0x22, 0x81, 0x82]

/-- A byte that is no opcode of R62 has no row. -/
theorem lookupRow_none (b : Byte) (h : b ∉ knownOpcodes) : lookupRow b = none := by
  revert b
  decide

theorem decode_unknown (b : Byte) (rest : List Byte) (h : b ∉ knownOpcodes) :
    decode (b :: rest) = .error (.illegalOpcode b) := by
  simp [decode, lookupRow_none b h]

theorem decode_send (rest : List Byte) : decode (0x22 :: rest) = decodeSend rest := rfl

/-- Every row but SEND's is read whole from its opcode. -/
theorem decode_plain (i : Instr) (rest : List Byte) (h : ∀ bytes, i ≠ .send bytes) :
    decode (i.opcode :: rest) = .ok (i, rest) := by
  cases i with
  | send bytes => exact absurd rfl (h bytes)
  | _ => rfl

/-- A SEND is read where its payload is all there. -/
theorem decodeSend_payload (bytes rest : List Byte) (h : bytes.length ≤ 255) :
    decodeSend (BitVec.ofNat 8 bytes.length :: (bytes ++ rest)) = .ok (.send bytes, rest) := by
  have hm : bytes.length % 256 = bytes.length := by omega
  simp [decodeSend, hm]

/-- Everything the rest of a SEND can be read as. -/
theorem decodeSend_cases (bytes rest : List Byte) (i : Instr)
    (h : decodeSend bytes = .ok (i, rest)) :
    ∃ len payload, bytes = len :: (payload ++ rest) ∧ payload.length = len.toNat ∧
      i = .send payload := by
  cases bytes with
  | nil => cases h
  | cons len bs =>
    simp only [decodeSend] at h
    split at h
    · cases h
    · cases h
      exact ⟨len, _, by simp, by simp; omega, rfl⟩

/-- A SEND never fails for its opcode. -/
theorem decodeSend_error (bytes : List Byte) (e : DecodeError) (h : decodeSend bytes = .error e) :
    e = .incompleteSend := by
  cases bytes with
  | nil => cases h; rfl
  | cons len bs =>
    simp only [decodeSend] at h
    split at h
    · cases h; rfl
    · cases h

end Sys2Proof
end

