-- ==== Sys2Proof/Laws/State.lean ====
section
/-! SUPPORT. One lemma for each field of the state under each named update of it, all true by
unfolding, so that no proof unfolds an update. -/

namespace Sys2Proof.Machine

/-! ### A step's outputs (R64, R65) -/

@[simp] theorem respond_rxConfigured (ops bytes : List Byte) (s : State) :
    (respond ops bytes s).rxConfigured = s.rxConfigured := rfl
@[simp] theorem respond_txConfigured (ops bytes : List Byte) (s : State) :
    (respond ops bytes s).txConfigured = s.txConfigured := rfl
@[simp] theorem respond_rxEnabled (ops bytes : List Byte) (s : State) :
    (respond ops bytes s).rxEnabled = s.rxEnabled := rfl
@[simp] theorem respond_edgeCnt (ops bytes : List Byte) (s : State) :
    (respond ops bytes s).edgeCnt = s.edgeCnt := rfl
@[simp] theorem respond_btoRun (ops bytes : List Byte) (s : State) :
    (respond ops bytes s).btoRun = s.btoRun := rfl
@[simp] theorem respond_btoCnt (ops bytes : List Byte) (s : State) :
    (respond ops bytes s).btoCnt = s.btoCnt := rfl
@[simp] theorem respond_ftoRun (ops bytes : List Byte) (s : State) :
    (respond ops bytes s).ftoRun = s.ftoRun := rfl
@[simp] theorem respond_ftoCnt (ops bytes : List Byte) (s : State) :
    (respond ops bytes s).ftoCnt = s.ftoCnt := rfl
@[simp] theorem respond_pulseCnt (ops bytes : List Byte) (s : State) :
    (respond ops bytes s).pulseCnt = s.pulseCnt := rfl
@[simp] theorem respond_bitRx (ops bytes : List Byte) (s : State) :
    (respond ops bytes s).bitRx = s.bitRx := rfl
@[simp] theorem respond_streamRx (ops bytes : List Byte) (s : State) :
    (respond ops bytes s).streamRx = s.streamRx := rfl
@[simp] theorem respond_threshold (ops bytes : List Byte) (s : State) :
    (respond ops bytes s).threshold = s.threshold := rfl
@[simp] theorem respond_startFlag (ops bytes : List Byte) (s : State) :
    (respond ops bytes s).startFlag = s.startFlag := rfl
@[simp] theorem respond_bitIdx (ops bytes : List Byte) (s : State) :
    (respond ops bytes s).bitIdx = s.bitIdx := rfl
@[simp] theorem respond_wordIdx (ops bytes : List Byte) (s : State) :
    (respond ops bytes s).wordIdx = s.wordIdx := rfl
@[simp] theorem respond_valid (ops bytes : List Byte) (s : State) :
    (respond ops bytes s).valid = s.valid := rfl
@[simp] theorem respond_rxWords (ops bytes : List Byte) (s : State) :
    (respond ops bytes s).rxWords = s.rxWords := rfl
@[simp] theorem respond_pubWords (ops bytes : List Byte) (s : State) :
    (respond ops bytes s).pubWords = s.pubWords := rfl
@[simp] theorem respond_pubLen (ops bytes : List Byte) (s : State) :
    (respond ops bytes s).pubLen = s.pubLen := rfl
@[simp] theorem respond_pubValid (ops bytes : List Byte) (s : State) :
    (respond ops bytes s).pubValid = s.pubValid := rfl
@[simp] theorem respond_dataReady (ops bytes : List Byte) (s : State) :
    (respond ops bytes s).dataReady = s.dataReady := rfl
@[simp] theorem respond_transmitting (ops bytes : List Byte) (s : State) :
    (respond ops bytes s).transmitting = s.transmitting := rfl
@[simp] theorem respond_txWords (ops bytes : List Byte) (s : State) :
    (respond ops bytes s).txWords = s.txWords := rfl
@[simp] theorem respond_txBitLen (ops bytes : List Byte) (s : State) :
    (respond ops bytes s).txBitLen = s.txBitLen := rfl
@[simp] theorem respond_txCursor (ops bytes : List Byte) (s : State) :
    (respond ops bytes s).txCursor = s.txCursor := rfl
@[simp] theorem respond_txRemaining (ops bytes : List Byte) (s : State) :
    (respond ops bytes s).txRemaining = s.txRemaining := rfl
@[simp] theorem respond_txNext (ops bytes : List Byte) (s : State) :
    (respond ops bytes s).txNext = s.txNext := rfl
@[simp] theorem respond_txTimerRun (ops bytes : List Byte) (s : State) :
    (respond ops bytes s).txTimerRun = s.txTimerRun := rfl
@[simp] theorem respond_carrierOn (ops bytes : List Byte) (s : State) :
    (respond ops bytes s).carrierOn = s.carrierOn := rfl
@[simp] theorem respond_txEnableOut (ops bytes : List Byte) (s : State) :
    (respond ops bytes s).txEnableOut = s.txEnableOut := rfl
@[simp] theorem respond_fault (ops bytes : List Byte) (s : State) :
    (respond ops bytes s).fault = s.fault := rfl
@[simp] theorem respond_input (ops bytes : List Byte) (s : State) :
    (respond ops bytes s).input = s.input := rfl
@[simp] theorem respond_response (ops bytes : List Byte) (s : State) :
    (respond ops bytes s).response = some bytes := rfl
@[simp] theorem respond_trace (ops bytes : List Byte) (s : State) :
    (respond ops bytes s).trace = ops := rfl

/-! ### Raising a fault (R150) -/

@[simp] theorem raiseFault_rxConfigured (code : FaultCode) (op : Byte) (s : State) :
    (raiseFault code op s).rxConfigured = s.rxConfigured := rfl
@[simp] theorem raiseFault_txConfigured (code : FaultCode) (op : Byte) (s : State) :
    (raiseFault code op s).txConfigured = s.txConfigured := rfl
@[simp] theorem raiseFault_rxEnabled (code : FaultCode) (op : Byte) (s : State) :
    (raiseFault code op s).rxEnabled = s.rxEnabled := rfl
@[simp] theorem raiseFault_edgeCnt (code : FaultCode) (op : Byte) (s : State) :
    (raiseFault code op s).edgeCnt = s.edgeCnt := rfl
@[simp] theorem raiseFault_btoRun (code : FaultCode) (op : Byte) (s : State) :
    (raiseFault code op s).btoRun = s.btoRun := rfl
@[simp] theorem raiseFault_btoCnt (code : FaultCode) (op : Byte) (s : State) :
    (raiseFault code op s).btoCnt = s.btoCnt := rfl
@[simp] theorem raiseFault_ftoRun (code : FaultCode) (op : Byte) (s : State) :
    (raiseFault code op s).ftoRun = s.ftoRun := rfl
@[simp] theorem raiseFault_ftoCnt (code : FaultCode) (op : Byte) (s : State) :
    (raiseFault code op s).ftoCnt = s.ftoCnt := rfl
@[simp] theorem raiseFault_pulseCnt (code : FaultCode) (op : Byte) (s : State) :
    (raiseFault code op s).pulseCnt = s.pulseCnt := rfl
@[simp] theorem raiseFault_bitRx (code : FaultCode) (op : Byte) (s : State) :
    (raiseFault code op s).bitRx = s.bitRx := rfl
@[simp] theorem raiseFault_streamRx (code : FaultCode) (op : Byte) (s : State) :
    (raiseFault code op s).streamRx = s.streamRx := rfl
@[simp] theorem raiseFault_threshold (code : FaultCode) (op : Byte) (s : State) :
    (raiseFault code op s).threshold = s.threshold := rfl
@[simp] theorem raiseFault_startFlag (code : FaultCode) (op : Byte) (s : State) :
    (raiseFault code op s).startFlag = s.startFlag := rfl
@[simp] theorem raiseFault_bitIdx (code : FaultCode) (op : Byte) (s : State) :
    (raiseFault code op s).bitIdx = s.bitIdx := rfl
@[simp] theorem raiseFault_wordIdx (code : FaultCode) (op : Byte) (s : State) :
    (raiseFault code op s).wordIdx = s.wordIdx := rfl
@[simp] theorem raiseFault_valid (code : FaultCode) (op : Byte) (s : State) :
    (raiseFault code op s).valid = s.valid := rfl
@[simp] theorem raiseFault_rxWords (code : FaultCode) (op : Byte) (s : State) :
    (raiseFault code op s).rxWords = s.rxWords := rfl
@[simp] theorem raiseFault_pubWords (code : FaultCode) (op : Byte) (s : State) :
    (raiseFault code op s).pubWords = s.pubWords := rfl
@[simp] theorem raiseFault_pubLen (code : FaultCode) (op : Byte) (s : State) :
    (raiseFault code op s).pubLen = s.pubLen := rfl
@[simp] theorem raiseFault_pubValid (code : FaultCode) (op : Byte) (s : State) :
    (raiseFault code op s).pubValid = s.pubValid := rfl
@[simp] theorem raiseFault_dataReady (code : FaultCode) (op : Byte) (s : State) :
    (raiseFault code op s).dataReady = s.dataReady := rfl
@[simp] theorem raiseFault_transmitting (code : FaultCode) (op : Byte) (s : State) :
    (raiseFault code op s).transmitting = s.transmitting := rfl
@[simp] theorem raiseFault_txWords (code : FaultCode) (op : Byte) (s : State) :
    (raiseFault code op s).txWords = s.txWords := rfl
@[simp] theorem raiseFault_txBitLen (code : FaultCode) (op : Byte) (s : State) :
    (raiseFault code op s).txBitLen = s.txBitLen := rfl
@[simp] theorem raiseFault_txCursor (code : FaultCode) (op : Byte) (s : State) :
    (raiseFault code op s).txCursor = s.txCursor := rfl
@[simp] theorem raiseFault_txRemaining (code : FaultCode) (op : Byte) (s : State) :
    (raiseFault code op s).txRemaining = s.txRemaining := rfl
@[simp] theorem raiseFault_txNext (code : FaultCode) (op : Byte) (s : State) :
    (raiseFault code op s).txNext = s.txNext := rfl
@[simp] theorem raiseFault_txTimerRun (code : FaultCode) (op : Byte) (s : State) :
    (raiseFault code op s).txTimerRun = s.txTimerRun := rfl
@[simp] theorem raiseFault_carrierOn (code : FaultCode) (op : Byte) (s : State) :
    (raiseFault code op s).carrierOn = s.carrierOn := rfl
@[simp] theorem raiseFault_txEnableOut (code : FaultCode) (op : Byte) (s : State) :
    (raiseFault code op s).txEnableOut = s.txEnableOut := rfl
@[simp] theorem raiseFault_fault (code : FaultCode) (op : Byte) (s : State) :
    (raiseFault code op s).fault = some code := rfl
@[simp] theorem raiseFault_input (code : FaultCode) (op : Byte) (s : State) :
    (raiseFault code op s).input = s.input := rfl
@[simp] theorem raiseFault_response (code : FaultCode) (op : Byte) (s : State) :
    (raiseFault code op s).response = none := rfl
@[simp] theorem raiseFault_trace (code : FaultCode) (op : Byte) (s : State) :
    (raiseFault code op s).trace = [op] := rfl

/-! ### bitRx cleared (R24) -/

@[simp] theorem clearBit_rxConfigured (s : State) :
    (clearBit s).rxConfigured = s.rxConfigured := rfl
@[simp] theorem clearBit_txConfigured (s : State) :
    (clearBit s).txConfigured = s.txConfigured := rfl
@[simp] theorem clearBit_rxEnabled (s : State) :
    (clearBit s).rxEnabled = s.rxEnabled := rfl
@[simp] theorem clearBit_edgeCnt (s : State) :
    (clearBit s).edgeCnt = s.edgeCnt := rfl
@[simp] theorem clearBit_btoRun (s : State) :
    (clearBit s).btoRun = s.btoRun := rfl
@[simp] theorem clearBit_btoCnt (s : State) :
    (clearBit s).btoCnt = s.btoCnt := rfl
@[simp] theorem clearBit_ftoRun (s : State) :
    (clearBit s).ftoRun = s.ftoRun := rfl
@[simp] theorem clearBit_ftoCnt (s : State) :
    (clearBit s).ftoCnt = s.ftoCnt := rfl
@[simp] theorem clearBit_pulseCnt (s : State) :
    (clearBit s).pulseCnt = s.pulseCnt := rfl
@[simp] theorem clearBit_bitRx (s : State) :
    (clearBit s).bitRx = false := rfl
@[simp] theorem clearBit_streamRx (s : State) :
    (clearBit s).streamRx = s.streamRx := rfl
@[simp] theorem clearBit_threshold (s : State) :
    (clearBit s).threshold = s.threshold := rfl
@[simp] theorem clearBit_startFlag (s : State) :
    (clearBit s).startFlag = s.startFlag := rfl
@[simp] theorem clearBit_bitIdx (s : State) :
    (clearBit s).bitIdx = s.bitIdx := rfl
@[simp] theorem clearBit_wordIdx (s : State) :
    (clearBit s).wordIdx = s.wordIdx := rfl
@[simp] theorem clearBit_valid (s : State) :
    (clearBit s).valid = s.valid := rfl
@[simp] theorem clearBit_rxWords (s : State) :
    (clearBit s).rxWords = s.rxWords := rfl
@[simp] theorem clearBit_pubWords (s : State) :
    (clearBit s).pubWords = s.pubWords := rfl
@[simp] theorem clearBit_pubLen (s : State) :
    (clearBit s).pubLen = s.pubLen := rfl
@[simp] theorem clearBit_pubValid (s : State) :
    (clearBit s).pubValid = s.pubValid := rfl
@[simp] theorem clearBit_dataReady (s : State) :
    (clearBit s).dataReady = s.dataReady := rfl
@[simp] theorem clearBit_transmitting (s : State) :
    (clearBit s).transmitting = s.transmitting := rfl
@[simp] theorem clearBit_txWords (s : State) :
    (clearBit s).txWords = s.txWords := rfl
@[simp] theorem clearBit_txBitLen (s : State) :
    (clearBit s).txBitLen = s.txBitLen := rfl
@[simp] theorem clearBit_txCursor (s : State) :
    (clearBit s).txCursor = s.txCursor := rfl
@[simp] theorem clearBit_txRemaining (s : State) :
    (clearBit s).txRemaining = s.txRemaining := rfl
@[simp] theorem clearBit_txNext (s : State) :
    (clearBit s).txNext = s.txNext := rfl
@[simp] theorem clearBit_txTimerRun (s : State) :
    (clearBit s).txTimerRun = s.txTimerRun := rfl
@[simp] theorem clearBit_carrierOn (s : State) :
    (clearBit s).carrierOn = s.carrierOn := rfl
@[simp] theorem clearBit_txEnableOut (s : State) :
    (clearBit s).txEnableOut = s.txEnableOut := rfl
@[simp] theorem clearBit_fault (s : State) :
    (clearBit s).fault = s.fault := rfl
@[simp] theorem clearBit_input (s : State) :
    (clearBit s).input = s.input := rfl
@[simp] theorem clearBit_response (s : State) :
    (clearBit s).response = s.response := rfl
@[simp] theorem clearBit_trace (s : State) :
    (clearBit s).trace = s.trace := rfl

/-! ### streamRx cleared (R25) -/

@[simp] theorem clearStream_rxConfigured (s : State) :
    (clearStream s).rxConfigured = s.rxConfigured := rfl
@[simp] theorem clearStream_txConfigured (s : State) :
    (clearStream s).txConfigured = s.txConfigured := rfl
@[simp] theorem clearStream_rxEnabled (s : State) :
    (clearStream s).rxEnabled = s.rxEnabled := rfl
@[simp] theorem clearStream_edgeCnt (s : State) :
    (clearStream s).edgeCnt = s.edgeCnt := rfl
@[simp] theorem clearStream_btoRun (s : State) :
    (clearStream s).btoRun = s.btoRun := rfl
@[simp] theorem clearStream_btoCnt (s : State) :
    (clearStream s).btoCnt = s.btoCnt := rfl
@[simp] theorem clearStream_ftoRun (s : State) :
    (clearStream s).ftoRun = s.ftoRun := rfl
@[simp] theorem clearStream_ftoCnt (s : State) :
    (clearStream s).ftoCnt = s.ftoCnt := rfl
@[simp] theorem clearStream_pulseCnt (s : State) :
    (clearStream s).pulseCnt = s.pulseCnt := rfl
@[simp] theorem clearStream_bitRx (s : State) :
    (clearStream s).bitRx = s.bitRx := rfl
@[simp] theorem clearStream_streamRx (s : State) :
    (clearStream s).streamRx = false := rfl
@[simp] theorem clearStream_threshold (s : State) :
    (clearStream s).threshold = s.threshold := rfl
@[simp] theorem clearStream_startFlag (s : State) :
    (clearStream s).startFlag = s.startFlag := rfl
@[simp] theorem clearStream_bitIdx (s : State) :
    (clearStream s).bitIdx = s.bitIdx := rfl
@[simp] theorem clearStream_wordIdx (s : State) :
    (clearStream s).wordIdx = s.wordIdx := rfl
@[simp] theorem clearStream_valid (s : State) :
    (clearStream s).valid = s.valid := rfl
@[simp] theorem clearStream_rxWords (s : State) :
    (clearStream s).rxWords = s.rxWords := rfl
@[simp] theorem clearStream_pubWords (s : State) :
    (clearStream s).pubWords = s.pubWords := rfl
@[simp] theorem clearStream_pubLen (s : State) :
    (clearStream s).pubLen = s.pubLen := rfl
@[simp] theorem clearStream_pubValid (s : State) :
    (clearStream s).pubValid = s.pubValid := rfl
@[simp] theorem clearStream_dataReady (s : State) :
    (clearStream s).dataReady = s.dataReady := rfl
@[simp] theorem clearStream_transmitting (s : State) :
    (clearStream s).transmitting = s.transmitting := rfl
@[simp] theorem clearStream_txWords (s : State) :
    (clearStream s).txWords = s.txWords := rfl
@[simp] theorem clearStream_txBitLen (s : State) :
    (clearStream s).txBitLen = s.txBitLen := rfl
@[simp] theorem clearStream_txCursor (s : State) :
    (clearStream s).txCursor = s.txCursor := rfl
@[simp] theorem clearStream_txRemaining (s : State) :
    (clearStream s).txRemaining = s.txRemaining := rfl
@[simp] theorem clearStream_txNext (s : State) :
    (clearStream s).txNext = s.txNext := rfl
@[simp] theorem clearStream_txTimerRun (s : State) :
    (clearStream s).txTimerRun = s.txTimerRun := rfl
@[simp] theorem clearStream_carrierOn (s : State) :
    (clearStream s).carrierOn = s.carrierOn := rfl
@[simp] theorem clearStream_txEnableOut (s : State) :
    (clearStream s).txEnableOut = s.txEnableOut := rfl
@[simp] theorem clearStream_fault (s : State) :
    (clearStream s).fault = s.fault := rfl
@[simp] theorem clearStream_input (s : State) :
    (clearStream s).input = s.input := rfl
@[simp] theorem clearStream_response (s : State) :
    (clearStream s).response = s.response := rfl
@[simp] theorem clearStream_trace (s : State) :
    (clearStream s).trace = s.trace := rfl

/-! ### dataReady cleared (R33) -/

@[simp] theorem clearReady_rxConfigured (s : State) :
    (clearReady s).rxConfigured = s.rxConfigured := rfl
@[simp] theorem clearReady_txConfigured (s : State) :
    (clearReady s).txConfigured = s.txConfigured := rfl
@[simp] theorem clearReady_rxEnabled (s : State) :
    (clearReady s).rxEnabled = s.rxEnabled := rfl
@[simp] theorem clearReady_edgeCnt (s : State) :
    (clearReady s).edgeCnt = s.edgeCnt := rfl
@[simp] theorem clearReady_btoRun (s : State) :
    (clearReady s).btoRun = s.btoRun := rfl
@[simp] theorem clearReady_btoCnt (s : State) :
    (clearReady s).btoCnt = s.btoCnt := rfl
@[simp] theorem clearReady_ftoRun (s : State) :
    (clearReady s).ftoRun = s.ftoRun := rfl
@[simp] theorem clearReady_ftoCnt (s : State) :
    (clearReady s).ftoCnt = s.ftoCnt := rfl
@[simp] theorem clearReady_pulseCnt (s : State) :
    (clearReady s).pulseCnt = s.pulseCnt := rfl
@[simp] theorem clearReady_bitRx (s : State) :
    (clearReady s).bitRx = s.bitRx := rfl
@[simp] theorem clearReady_streamRx (s : State) :
    (clearReady s).streamRx = s.streamRx := rfl
@[simp] theorem clearReady_threshold (s : State) :
    (clearReady s).threshold = s.threshold := rfl
@[simp] theorem clearReady_startFlag (s : State) :
    (clearReady s).startFlag = s.startFlag := rfl
@[simp] theorem clearReady_bitIdx (s : State) :
    (clearReady s).bitIdx = s.bitIdx := rfl
@[simp] theorem clearReady_wordIdx (s : State) :
    (clearReady s).wordIdx = s.wordIdx := rfl
@[simp] theorem clearReady_valid (s : State) :
    (clearReady s).valid = s.valid := rfl
@[simp] theorem clearReady_rxWords (s : State) :
    (clearReady s).rxWords = s.rxWords := rfl
@[simp] theorem clearReady_pubWords (s : State) :
    (clearReady s).pubWords = s.pubWords := rfl
@[simp] theorem clearReady_pubLen (s : State) :
    (clearReady s).pubLen = s.pubLen := rfl
@[simp] theorem clearReady_pubValid (s : State) :
    (clearReady s).pubValid = s.pubValid := rfl
@[simp] theorem clearReady_dataReady (s : State) :
    (clearReady s).dataReady = false := rfl
@[simp] theorem clearReady_transmitting (s : State) :
    (clearReady s).transmitting = s.transmitting := rfl
@[simp] theorem clearReady_txWords (s : State) :
    (clearReady s).txWords = s.txWords := rfl
@[simp] theorem clearReady_txBitLen (s : State) :
    (clearReady s).txBitLen = s.txBitLen := rfl
@[simp] theorem clearReady_txCursor (s : State) :
    (clearReady s).txCursor = s.txCursor := rfl
@[simp] theorem clearReady_txRemaining (s : State) :
    (clearReady s).txRemaining = s.txRemaining := rfl
@[simp] theorem clearReady_txNext (s : State) :
    (clearReady s).txNext = s.txNext := rfl
@[simp] theorem clearReady_txTimerRun (s : State) :
    (clearReady s).txTimerRun = s.txTimerRun := rfl
@[simp] theorem clearReady_carrierOn (s : State) :
    (clearReady s).carrierOn = s.carrierOn := rfl
@[simp] theorem clearReady_txEnableOut (s : State) :
    (clearReady s).txEnableOut = s.txEnableOut := rfl
@[simp] theorem clearReady_fault (s : State) :
    (clearReady s).fault = s.fault := rfl
@[simp] theorem clearReady_input (s : State) :
    (clearReady s).input = s.input := rfl
@[simp] theorem clearReady_response (s : State) :
    (clearReady s).response = s.response := rfl
@[simp] theorem clearReady_trace (s : State) :
    (clearReady s).trace = s.trace := rfl

/-! ### rxConfigured set (R18) -/

@[simp] theorem configureRx_rxConfigured (s : State) :
    (configureRx s).rxConfigured = true := rfl
@[simp] theorem configureRx_txConfigured (s : State) :
    (configureRx s).txConfigured = s.txConfigured := rfl
@[simp] theorem configureRx_rxEnabled (s : State) :
    (configureRx s).rxEnabled = s.rxEnabled := rfl
@[simp] theorem configureRx_edgeCnt (s : State) :
    (configureRx s).edgeCnt = s.edgeCnt := rfl
@[simp] theorem configureRx_btoRun (s : State) :
    (configureRx s).btoRun = s.btoRun := rfl
@[simp] theorem configureRx_btoCnt (s : State) :
    (configureRx s).btoCnt = s.btoCnt := rfl
@[simp] theorem configureRx_ftoRun (s : State) :
    (configureRx s).ftoRun = s.ftoRun := rfl
@[simp] theorem configureRx_ftoCnt (s : State) :
    (configureRx s).ftoCnt = s.ftoCnt := rfl
@[simp] theorem configureRx_pulseCnt (s : State) :
    (configureRx s).pulseCnt = s.pulseCnt := rfl
@[simp] theorem configureRx_bitRx (s : State) :
    (configureRx s).bitRx = s.bitRx := rfl
@[simp] theorem configureRx_streamRx (s : State) :
    (configureRx s).streamRx = s.streamRx := rfl
@[simp] theorem configureRx_threshold (s : State) :
    (configureRx s).threshold = s.threshold := rfl
@[simp] theorem configureRx_startFlag (s : State) :
    (configureRx s).startFlag = s.startFlag := rfl
@[simp] theorem configureRx_bitIdx (s : State) :
    (configureRx s).bitIdx = s.bitIdx := rfl
@[simp] theorem configureRx_wordIdx (s : State) :
    (configureRx s).wordIdx = s.wordIdx := rfl
@[simp] theorem configureRx_valid (s : State) :
    (configureRx s).valid = s.valid := rfl
@[simp] theorem configureRx_rxWords (s : State) :
    (configureRx s).rxWords = s.rxWords := rfl
@[simp] theorem configureRx_pubWords (s : State) :
    (configureRx s).pubWords = s.pubWords := rfl
@[simp] theorem configureRx_pubLen (s : State) :
    (configureRx s).pubLen = s.pubLen := rfl
@[simp] theorem configureRx_pubValid (s : State) :
    (configureRx s).pubValid = s.pubValid := rfl
@[simp] theorem configureRx_dataReady (s : State) :
    (configureRx s).dataReady = s.dataReady := rfl
@[simp] theorem configureRx_transmitting (s : State) :
    (configureRx s).transmitting = s.transmitting := rfl
@[simp] theorem configureRx_txWords (s : State) :
    (configureRx s).txWords = s.txWords := rfl
@[simp] theorem configureRx_txBitLen (s : State) :
    (configureRx s).txBitLen = s.txBitLen := rfl
@[simp] theorem configureRx_txCursor (s : State) :
    (configureRx s).txCursor = s.txCursor := rfl
@[simp] theorem configureRx_txRemaining (s : State) :
    (configureRx s).txRemaining = s.txRemaining := rfl
@[simp] theorem configureRx_txNext (s : State) :
    (configureRx s).txNext = s.txNext := rfl
@[simp] theorem configureRx_txTimerRun (s : State) :
    (configureRx s).txTimerRun = s.txTimerRun := rfl
@[simp] theorem configureRx_carrierOn (s : State) :
    (configureRx s).carrierOn = s.carrierOn := rfl
@[simp] theorem configureRx_txEnableOut (s : State) :
    (configureRx s).txEnableOut = s.txEnableOut := rfl
@[simp] theorem configureRx_fault (s : State) :
    (configureRx s).fault = s.fault := rfl
@[simp] theorem configureRx_input (s : State) :
    (configureRx s).input = s.input := rfl
@[simp] theorem configureRx_response (s : State) :
    (configureRx s).response = s.response := rfl
@[simp] theorem configureRx_trace (s : State) :
    (configureRx s).trace = s.trace := rfl

/-! ### txConfigured set (R18) -/

@[simp] theorem configureTx_rxConfigured (s : State) :
    (configureTx s).rxConfigured = s.rxConfigured := rfl
@[simp] theorem configureTx_txConfigured (s : State) :
    (configureTx s).txConfigured = true := rfl
@[simp] theorem configureTx_rxEnabled (s : State) :
    (configureTx s).rxEnabled = s.rxEnabled := rfl
@[simp] theorem configureTx_edgeCnt (s : State) :
    (configureTx s).edgeCnt = s.edgeCnt := rfl
@[simp] theorem configureTx_btoRun (s : State) :
    (configureTx s).btoRun = s.btoRun := rfl
@[simp] theorem configureTx_btoCnt (s : State) :
    (configureTx s).btoCnt = s.btoCnt := rfl
@[simp] theorem configureTx_ftoRun (s : State) :
    (configureTx s).ftoRun = s.ftoRun := rfl
@[simp] theorem configureTx_ftoCnt (s : State) :
    (configureTx s).ftoCnt = s.ftoCnt := rfl
@[simp] theorem configureTx_pulseCnt (s : State) :
    (configureTx s).pulseCnt = s.pulseCnt := rfl
@[simp] theorem configureTx_bitRx (s : State) :
    (configureTx s).bitRx = s.bitRx := rfl
@[simp] theorem configureTx_streamRx (s : State) :
    (configureTx s).streamRx = s.streamRx := rfl
@[simp] theorem configureTx_threshold (s : State) :
    (configureTx s).threshold = s.threshold := rfl
@[simp] theorem configureTx_startFlag (s : State) :
    (configureTx s).startFlag = s.startFlag := rfl
@[simp] theorem configureTx_bitIdx (s : State) :
    (configureTx s).bitIdx = s.bitIdx := rfl
@[simp] theorem configureTx_wordIdx (s : State) :
    (configureTx s).wordIdx = s.wordIdx := rfl
@[simp] theorem configureTx_valid (s : State) :
    (configureTx s).valid = s.valid := rfl
@[simp] theorem configureTx_rxWords (s : State) :
    (configureTx s).rxWords = s.rxWords := rfl
@[simp] theorem configureTx_pubWords (s : State) :
    (configureTx s).pubWords = s.pubWords := rfl
@[simp] theorem configureTx_pubLen (s : State) :
    (configureTx s).pubLen = s.pubLen := rfl
@[simp] theorem configureTx_pubValid (s : State) :
    (configureTx s).pubValid = s.pubValid := rfl
@[simp] theorem configureTx_dataReady (s : State) :
    (configureTx s).dataReady = s.dataReady := rfl
@[simp] theorem configureTx_transmitting (s : State) :
    (configureTx s).transmitting = s.transmitting := rfl
@[simp] theorem configureTx_txWords (s : State) :
    (configureTx s).txWords = s.txWords := rfl
@[simp] theorem configureTx_txBitLen (s : State) :
    (configureTx s).txBitLen = s.txBitLen := rfl
@[simp] theorem configureTx_txCursor (s : State) :
    (configureTx s).txCursor = s.txCursor := rfl
@[simp] theorem configureTx_txRemaining (s : State) :
    (configureTx s).txRemaining = s.txRemaining := rfl
@[simp] theorem configureTx_txNext (s : State) :
    (configureTx s).txNext = s.txNext := rfl
@[simp] theorem configureTx_txTimerRun (s : State) :
    (configureTx s).txTimerRun = s.txTimerRun := rfl
@[simp] theorem configureTx_carrierOn (s : State) :
    (configureTx s).carrierOn = s.carrierOn := rfl
@[simp] theorem configureTx_txEnableOut (s : State) :
    (configureTx s).txEnableOut = s.txEnableOut := rfl
@[simp] theorem configureTx_fault (s : State) :
    (configureTx s).fault = s.fault := rfl
@[simp] theorem configureTx_input (s : State) :
    (configureTx s).input = s.input := rfl
@[simp] theorem configureTx_response (s : State) :
    (configureTx s).response = s.response := rfl
@[simp] theorem configureTx_trace (s : State) :
    (configureTx s).trace = s.trace := rfl

/-! ### rxEnabled written (R19) -/

@[simp] theorem setEnabled_rxConfigured (b : Bool) (s : State) :
    (setEnabled b s).rxConfigured = s.rxConfigured := rfl
@[simp] theorem setEnabled_txConfigured (b : Bool) (s : State) :
    (setEnabled b s).txConfigured = s.txConfigured := rfl
@[simp] theorem setEnabled_rxEnabled (b : Bool) (s : State) :
    (setEnabled b s).rxEnabled = b := rfl
@[simp] theorem setEnabled_edgeCnt (b : Bool) (s : State) :
    (setEnabled b s).edgeCnt = s.edgeCnt := rfl
@[simp] theorem setEnabled_btoRun (b : Bool) (s : State) :
    (setEnabled b s).btoRun = s.btoRun := rfl
@[simp] theorem setEnabled_btoCnt (b : Bool) (s : State) :
    (setEnabled b s).btoCnt = s.btoCnt := rfl
@[simp] theorem setEnabled_ftoRun (b : Bool) (s : State) :
    (setEnabled b s).ftoRun = s.ftoRun := rfl
@[simp] theorem setEnabled_ftoCnt (b : Bool) (s : State) :
    (setEnabled b s).ftoCnt = s.ftoCnt := rfl
@[simp] theorem setEnabled_pulseCnt (b : Bool) (s : State) :
    (setEnabled b s).pulseCnt = s.pulseCnt := rfl
@[simp] theorem setEnabled_bitRx (b : Bool) (s : State) :
    (setEnabled b s).bitRx = s.bitRx := rfl
@[simp] theorem setEnabled_streamRx (b : Bool) (s : State) :
    (setEnabled b s).streamRx = s.streamRx := rfl
@[simp] theorem setEnabled_threshold (b : Bool) (s : State) :
    (setEnabled b s).threshold = s.threshold := rfl
@[simp] theorem setEnabled_startFlag (b : Bool) (s : State) :
    (setEnabled b s).startFlag = s.startFlag := rfl
@[simp] theorem setEnabled_bitIdx (b : Bool) (s : State) :
    (setEnabled b s).bitIdx = s.bitIdx := rfl
@[simp] theorem setEnabled_wordIdx (b : Bool) (s : State) :
    (setEnabled b s).wordIdx = s.wordIdx := rfl
@[simp] theorem setEnabled_valid (b : Bool) (s : State) :
    (setEnabled b s).valid = s.valid := rfl
@[simp] theorem setEnabled_rxWords (b : Bool) (s : State) :
    (setEnabled b s).rxWords = s.rxWords := rfl
@[simp] theorem setEnabled_pubWords (b : Bool) (s : State) :
    (setEnabled b s).pubWords = s.pubWords := rfl
@[simp] theorem setEnabled_pubLen (b : Bool) (s : State) :
    (setEnabled b s).pubLen = s.pubLen := rfl
@[simp] theorem setEnabled_pubValid (b : Bool) (s : State) :
    (setEnabled b s).pubValid = s.pubValid := rfl
@[simp] theorem setEnabled_dataReady (b : Bool) (s : State) :
    (setEnabled b s).dataReady = s.dataReady := rfl
@[simp] theorem setEnabled_transmitting (b : Bool) (s : State) :
    (setEnabled b s).transmitting = s.transmitting := rfl
@[simp] theorem setEnabled_txWords (b : Bool) (s : State) :
    (setEnabled b s).txWords = s.txWords := rfl
@[simp] theorem setEnabled_txBitLen (b : Bool) (s : State) :
    (setEnabled b s).txBitLen = s.txBitLen := rfl
@[simp] theorem setEnabled_txCursor (b : Bool) (s : State) :
    (setEnabled b s).txCursor = s.txCursor := rfl
@[simp] theorem setEnabled_txRemaining (b : Bool) (s : State) :
    (setEnabled b s).txRemaining = s.txRemaining := rfl
@[simp] theorem setEnabled_txNext (b : Bool) (s : State) :
    (setEnabled b s).txNext = s.txNext := rfl
@[simp] theorem setEnabled_txTimerRun (b : Bool) (s : State) :
    (setEnabled b s).txTimerRun = s.txTimerRun := rfl
@[simp] theorem setEnabled_carrierOn (b : Bool) (s : State) :
    (setEnabled b s).carrierOn = s.carrierOn := rfl
@[simp] theorem setEnabled_txEnableOut (b : Bool) (s : State) :
    (setEnabled b s).txEnableOut = s.txEnableOut := rfl
@[simp] theorem setEnabled_fault (b : Bool) (s : State) :
    (setEnabled b s).fault = s.fault := rfl
@[simp] theorem setEnabled_input (b : Bool) (s : State) :
    (setEnabled b s).input = s.input := rfl
@[simp] theorem setEnabled_response (b : Bool) (s : State) :
    (setEnabled b s).response = s.response := rfl
@[simp] theorem setEnabled_trace (b : Bool) (s : State) :
    (setEnabled b s).trace = s.trace := rfl

/-! ### The per-frame reset (R101) -/

@[simp] theorem frameReset_rxConfigured (s : State) :
    (frameReset s).rxConfigured = s.rxConfigured := rfl
@[simp] theorem frameReset_txConfigured (s : State) :
    (frameReset s).txConfigured = s.txConfigured := rfl
@[simp] theorem frameReset_rxEnabled (s : State) :
    (frameReset s).rxEnabled = s.rxEnabled := rfl
@[simp] theorem frameReset_edgeCnt (s : State) :
    (frameReset s).edgeCnt = s.edgeCnt := rfl
@[simp] theorem frameReset_btoRun (s : State) :
    (frameReset s).btoRun = s.btoRun := rfl
@[simp] theorem frameReset_btoCnt (s : State) :
    (frameReset s).btoCnt = s.btoCnt := rfl
@[simp] theorem frameReset_ftoRun (s : State) :
    (frameReset s).ftoRun = s.ftoRun := rfl
@[simp] theorem frameReset_ftoCnt (s : State) :
    (frameReset s).ftoCnt = s.ftoCnt := rfl
@[simp] theorem frameReset_pulseCnt (s : State) :
    (frameReset s).pulseCnt = s.pulseCnt := rfl
@[simp] theorem frameReset_bitRx (s : State) :
    (frameReset s).bitRx = s.bitRx := rfl
@[simp] theorem frameReset_streamRx (s : State) :
    (frameReset s).streamRx = s.streamRx := rfl
@[simp] theorem frameReset_threshold (s : State) :
    (frameReset s).threshold = 0 := rfl
@[simp] theorem frameReset_startFlag (s : State) :
    (frameReset s).startFlag = true := rfl
@[simp] theorem frameReset_bitIdx (s : State) :
    (frameReset s).bitIdx = 0 := rfl
@[simp] theorem frameReset_wordIdx (s : State) :
    (frameReset s).wordIdx = 0 := rfl
@[simp] theorem frameReset_valid (s : State) :
    (frameReset s).valid = true := rfl
@[simp] theorem frameReset_rxWords (s : State) :
    (frameReset s).rxWords = s.rxWords := rfl
@[simp] theorem frameReset_pubWords (s : State) :
    (frameReset s).pubWords = s.pubWords := rfl
@[simp] theorem frameReset_pubLen (s : State) :
    (frameReset s).pubLen = s.pubLen := rfl
@[simp] theorem frameReset_pubValid (s : State) :
    (frameReset s).pubValid = s.pubValid := rfl
@[simp] theorem frameReset_dataReady (s : State) :
    (frameReset s).dataReady = s.dataReady := rfl
@[simp] theorem frameReset_transmitting (s : State) :
    (frameReset s).transmitting = s.transmitting := rfl
@[simp] theorem frameReset_txWords (s : State) :
    (frameReset s).txWords = s.txWords := rfl
@[simp] theorem frameReset_txBitLen (s : State) :
    (frameReset s).txBitLen = s.txBitLen := rfl
@[simp] theorem frameReset_txCursor (s : State) :
    (frameReset s).txCursor = s.txCursor := rfl
@[simp] theorem frameReset_txRemaining (s : State) :
    (frameReset s).txRemaining = s.txRemaining := rfl
@[simp] theorem frameReset_txNext (s : State) :
    (frameReset s).txNext = s.txNext := rfl
@[simp] theorem frameReset_txTimerRun (s : State) :
    (frameReset s).txTimerRun = s.txTimerRun := rfl
@[simp] theorem frameReset_carrierOn (s : State) :
    (frameReset s).carrierOn = s.carrierOn := rfl
@[simp] theorem frameReset_txEnableOut (s : State) :
    (frameReset s).txEnableOut = s.txEnableOut := rfl
@[simp] theorem frameReset_fault (s : State) :
    (frameReset s).fault = s.fault := rfl
@[simp] theorem frameReset_input (s : State) :
    (frameReset s).input = s.input := rfl
@[simp] theorem frameReset_response (s : State) :
    (frameReset s).response = s.response := rfl
@[simp] theorem frameReset_trace (s : State) :
    (frameReset s).trace = s.trace := rfl

/-! ### RX_RESET (R139) -/

@[simp] theorem rxReset_rxConfigured (s : State) :
    (rxReset s).rxConfigured = s.rxConfigured := rfl
@[simp] theorem rxReset_txConfigured (s : State) :
    (rxReset s).txConfigured = s.txConfigured := rfl
@[simp] theorem rxReset_rxEnabled (s : State) :
    (rxReset s).rxEnabled = s.rxEnabled := rfl
@[simp] theorem rxReset_edgeCnt (s : State) :
    (rxReset s).edgeCnt = 0 := rfl
@[simp] theorem rxReset_btoRun (s : State) :
    (rxReset s).btoRun = false := rfl
@[simp] theorem rxReset_btoCnt (s : State) :
    (rxReset s).btoCnt = 0 := rfl
@[simp] theorem rxReset_ftoRun (s : State) :
    (rxReset s).ftoRun = false := rfl
@[simp] theorem rxReset_ftoCnt (s : State) :
    (rxReset s).ftoCnt = 0 := rfl
@[simp] theorem rxReset_pulseCnt (s : State) :
    (rxReset s).pulseCnt = s.pulseCnt := rfl
@[simp] theorem rxReset_bitRx (s : State) :
    (rxReset s).bitRx = false := rfl
@[simp] theorem rxReset_streamRx (s : State) :
    (rxReset s).streamRx = false := rfl
@[simp] theorem rxReset_threshold (s : State) :
    (rxReset s).threshold = 0 := rfl
@[simp] theorem rxReset_startFlag (s : State) :
    (rxReset s).startFlag = true := rfl
@[simp] theorem rxReset_bitIdx (s : State) :
    (rxReset s).bitIdx = 0 := rfl
@[simp] theorem rxReset_wordIdx (s : State) :
    (rxReset s).wordIdx = 0 := rfl
@[simp] theorem rxReset_valid (s : State) :
    (rxReset s).valid = true := rfl
@[simp] theorem rxReset_rxWords (s : State) :
    (rxReset s).rxWords = s.rxWords := rfl
@[simp] theorem rxReset_pubWords (s : State) :
    (rxReset s).pubWords = s.pubWords := rfl
@[simp] theorem rxReset_pubLen (s : State) :
    (rxReset s).pubLen = s.pubLen := rfl
@[simp] theorem rxReset_pubValid (s : State) :
    (rxReset s).pubValid = s.pubValid := rfl
@[simp] theorem rxReset_dataReady (s : State) :
    (rxReset s).dataReady = s.dataReady := rfl
@[simp] theorem rxReset_transmitting (s : State) :
    (rxReset s).transmitting = s.transmitting := rfl
@[simp] theorem rxReset_txWords (s : State) :
    (rxReset s).txWords = s.txWords := rfl
@[simp] theorem rxReset_txBitLen (s : State) :
    (rxReset s).txBitLen = s.txBitLen := rfl
@[simp] theorem rxReset_txCursor (s : State) :
    (rxReset s).txCursor = s.txCursor := rfl
@[simp] theorem rxReset_txRemaining (s : State) :
    (rxReset s).txRemaining = s.txRemaining := rfl
@[simp] theorem rxReset_txNext (s : State) :
    (rxReset s).txNext = s.txNext := rfl
@[simp] theorem rxReset_txTimerRun (s : State) :
    (rxReset s).txTimerRun = s.txTimerRun := rfl
@[simp] theorem rxReset_carrierOn (s : State) :
    (rxReset s).carrierOn = s.carrierOn := rfl
@[simp] theorem rxReset_txEnableOut (s : State) :
    (rxReset s).txEnableOut = s.txEnableOut := rfl
@[simp] theorem rxReset_fault (s : State) :
    (rxReset s).fault = s.fault := rfl
@[simp] theorem rxReset_input (s : State) :
    (rxReset s).input = s.input := rfl
@[simp] theorem rxReset_response (s : State) :
    (rxReset s).response = s.response := rfl
@[simp] theorem rxReset_trace (s : State) :
    (rxReset s).trace = s.trace := rfl

/-! ### BIT_TIMEOUT (R92) -/

@[simp] theorem bitTimeout_rxConfigured (s : State) :
    (bitTimeout s).rxConfigured = s.rxConfigured := rfl
@[simp] theorem bitTimeout_txConfigured (s : State) :
    (bitTimeout s).txConfigured = s.txConfigured := rfl
@[simp] theorem bitTimeout_rxEnabled (s : State) :
    (bitTimeout s).rxEnabled = s.rxEnabled := rfl
@[simp] theorem bitTimeout_edgeCnt (s : State) :
    (bitTimeout s).edgeCnt = 0 := rfl
@[simp] theorem bitTimeout_btoRun (s : State) :
    (bitTimeout s).btoRun = false := rfl
@[simp] theorem bitTimeout_btoCnt (s : State) :
    (bitTimeout s).btoCnt = s.btoCnt := rfl
@[simp] theorem bitTimeout_ftoRun (s : State) :
    (bitTimeout s).ftoRun = s.ftoRun := rfl
@[simp] theorem bitTimeout_ftoCnt (s : State) :
    (bitTimeout s).ftoCnt = s.ftoCnt := rfl
@[simp] theorem bitTimeout_pulseCnt (s : State) :
    (bitTimeout s).pulseCnt = s.edgeCnt := rfl
@[simp] theorem bitTimeout_bitRx (s : State) :
    (bitTimeout s).bitRx = true := rfl
@[simp] theorem bitTimeout_streamRx (s : State) :
    (bitTimeout s).streamRx = s.streamRx := rfl
@[simp] theorem bitTimeout_threshold (s : State) :
    (bitTimeout s).threshold = s.threshold := rfl
@[simp] theorem bitTimeout_startFlag (s : State) :
    (bitTimeout s).startFlag = s.startFlag := rfl
@[simp] theorem bitTimeout_bitIdx (s : State) :
    (bitTimeout s).bitIdx = s.bitIdx := rfl
@[simp] theorem bitTimeout_wordIdx (s : State) :
    (bitTimeout s).wordIdx = s.wordIdx := rfl
@[simp] theorem bitTimeout_valid (s : State) :
    (bitTimeout s).valid = s.valid := rfl
@[simp] theorem bitTimeout_rxWords (s : State) :
    (bitTimeout s).rxWords = s.rxWords := rfl
@[simp] theorem bitTimeout_pubWords (s : State) :
    (bitTimeout s).pubWords = s.pubWords := rfl
@[simp] theorem bitTimeout_pubLen (s : State) :
    (bitTimeout s).pubLen = s.pubLen := rfl
@[simp] theorem bitTimeout_pubValid (s : State) :
    (bitTimeout s).pubValid = s.pubValid := rfl
@[simp] theorem bitTimeout_dataReady (s : State) :
    (bitTimeout s).dataReady = s.dataReady := rfl
@[simp] theorem bitTimeout_transmitting (s : State) :
    (bitTimeout s).transmitting = s.transmitting := rfl
@[simp] theorem bitTimeout_txWords (s : State) :
    (bitTimeout s).txWords = s.txWords := rfl
@[simp] theorem bitTimeout_txBitLen (s : State) :
    (bitTimeout s).txBitLen = s.txBitLen := rfl
@[simp] theorem bitTimeout_txCursor (s : State) :
    (bitTimeout s).txCursor = s.txCursor := rfl
@[simp] theorem bitTimeout_txRemaining (s : State) :
    (bitTimeout s).txRemaining = s.txRemaining := rfl
@[simp] theorem bitTimeout_txNext (s : State) :
    (bitTimeout s).txNext = s.txNext := rfl
@[simp] theorem bitTimeout_txTimerRun (s : State) :
    (bitTimeout s).txTimerRun = s.txTimerRun := rfl
@[simp] theorem bitTimeout_carrierOn (s : State) :
    (bitTimeout s).carrierOn = s.carrierOn := rfl
@[simp] theorem bitTimeout_txEnableOut (s : State) :
    (bitTimeout s).txEnableOut = s.txEnableOut := rfl
@[simp] theorem bitTimeout_fault (s : State) :
    (bitTimeout s).fault = s.fault := rfl
@[simp] theorem bitTimeout_input (s : State) :
    (bitTimeout s).input = s.input := rfl
@[simp] theorem bitTimeout_response (s : State) :
    (bitTimeout s).response = s.response := rfl
@[simp] theorem bitTimeout_trace (s : State) :
    (bitTimeout s).trace = s.trace := rfl

/-! ### FRAME_TIMEOUT (R93) -/

@[simp] theorem frameTimeout_rxConfigured (s : State) :
    (frameTimeout s).rxConfigured = s.rxConfigured := rfl
@[simp] theorem frameTimeout_txConfigured (s : State) :
    (frameTimeout s).txConfigured = s.txConfigured := rfl
@[simp] theorem frameTimeout_rxEnabled (s : State) :
    (frameTimeout s).rxEnabled = s.rxEnabled := rfl
@[simp] theorem frameTimeout_edgeCnt (s : State) :
    (frameTimeout s).edgeCnt = s.edgeCnt := rfl
@[simp] theorem frameTimeout_btoRun (s : State) :
    (frameTimeout s).btoRun = s.btoRun := rfl
@[simp] theorem frameTimeout_btoCnt (s : State) :
    (frameTimeout s).btoCnt = s.btoCnt := rfl
@[simp] theorem frameTimeout_ftoRun (s : State) :
    (frameTimeout s).ftoRun = false := rfl
@[simp] theorem frameTimeout_ftoCnt (s : State) :
    (frameTimeout s).ftoCnt = s.ftoCnt := rfl
@[simp] theorem frameTimeout_pulseCnt (s : State) :
    (frameTimeout s).pulseCnt = s.pulseCnt := rfl
@[simp] theorem frameTimeout_bitRx (s : State) :
    (frameTimeout s).bitRx = s.bitRx := rfl
@[simp] theorem frameTimeout_streamRx (s : State) :
    (frameTimeout s).streamRx = true := rfl
@[simp] theorem frameTimeout_threshold (s : State) :
    (frameTimeout s).threshold = s.threshold := rfl
@[simp] theorem frameTimeout_startFlag (s : State) :
    (frameTimeout s).startFlag = s.startFlag := rfl
@[simp] theorem frameTimeout_bitIdx (s : State) :
    (frameTimeout s).bitIdx = s.bitIdx := rfl
@[simp] theorem frameTimeout_wordIdx (s : State) :
    (frameTimeout s).wordIdx = s.wordIdx := rfl
@[simp] theorem frameTimeout_valid (s : State) :
    (frameTimeout s).valid = s.valid := rfl
@[simp] theorem frameTimeout_rxWords (s : State) :
    (frameTimeout s).rxWords = s.rxWords := rfl
@[simp] theorem frameTimeout_pubWords (s : State) :
    (frameTimeout s).pubWords = s.pubWords := rfl
@[simp] theorem frameTimeout_pubLen (s : State) :
    (frameTimeout s).pubLen = s.pubLen := rfl
@[simp] theorem frameTimeout_pubValid (s : State) :
    (frameTimeout s).pubValid = s.pubValid := rfl
@[simp] theorem frameTimeout_dataReady (s : State) :
    (frameTimeout s).dataReady = s.dataReady := rfl
@[simp] theorem frameTimeout_transmitting (s : State) :
    (frameTimeout s).transmitting = s.transmitting := rfl
@[simp] theorem frameTimeout_txWords (s : State) :
    (frameTimeout s).txWords = s.txWords := rfl
@[simp] theorem frameTimeout_txBitLen (s : State) :
    (frameTimeout s).txBitLen = s.txBitLen := rfl
@[simp] theorem frameTimeout_txCursor (s : State) :
    (frameTimeout s).txCursor = s.txCursor := rfl
@[simp] theorem frameTimeout_txRemaining (s : State) :
    (frameTimeout s).txRemaining = s.txRemaining := rfl
@[simp] theorem frameTimeout_txNext (s : State) :
    (frameTimeout s).txNext = s.txNext := rfl
@[simp] theorem frameTimeout_txTimerRun (s : State) :
    (frameTimeout s).txTimerRun = s.txTimerRun := rfl
@[simp] theorem frameTimeout_carrierOn (s : State) :
    (frameTimeout s).carrierOn = s.carrierOn := rfl
@[simp] theorem frameTimeout_txEnableOut (s : State) :
    (frameTimeout s).txEnableOut = s.txEnableOut := rfl
@[simp] theorem frameTimeout_fault (s : State) :
    (frameTimeout s).fault = s.fault := rfl
@[simp] theorem frameTimeout_input (s : State) :
    (frameTimeout s).input = s.input := rfl
@[simp] theorem frameTimeout_response (s : State) :
    (frameTimeout s).response = s.response := rfl
@[simp] theorem frameTimeout_trace (s : State) :
    (frameTimeout s).trace = s.trace := rfl

/-! ### One tick of both receive timers (R91) -/

@[simp] theorem countTimers_rxConfigured (s : State) :
    (countTimers s).rxConfigured = s.rxConfigured := rfl
@[simp] theorem countTimers_txConfigured (s : State) :
    (countTimers s).txConfigured = s.txConfigured := rfl
@[simp] theorem countTimers_rxEnabled (s : State) :
    (countTimers s).rxEnabled = s.rxEnabled := rfl
@[simp] theorem countTimers_edgeCnt (s : State) :
    (countTimers s).edgeCnt = s.edgeCnt := rfl
@[simp] theorem countTimers_btoRun (s : State) :
    (countTimers s).btoRun = s.btoRun := rfl
@[simp] theorem countTimers_btoCnt (s : State) :
    (countTimers s).btoCnt = timerCount s.btoRun s.btoCnt := rfl
@[simp] theorem countTimers_ftoRun (s : State) :
    (countTimers s).ftoRun = s.ftoRun := rfl
@[simp] theorem countTimers_ftoCnt (s : State) :
    (countTimers s).ftoCnt = timerCount s.ftoRun s.ftoCnt := rfl
@[simp] theorem countTimers_pulseCnt (s : State) :
    (countTimers s).pulseCnt = s.pulseCnt := rfl
@[simp] theorem countTimers_bitRx (s : State) :
    (countTimers s).bitRx = s.bitRx := rfl
@[simp] theorem countTimers_streamRx (s : State) :
    (countTimers s).streamRx = s.streamRx := rfl
@[simp] theorem countTimers_threshold (s : State) :
    (countTimers s).threshold = s.threshold := rfl
@[simp] theorem countTimers_startFlag (s : State) :
    (countTimers s).startFlag = s.startFlag := rfl
@[simp] theorem countTimers_bitIdx (s : State) :
    (countTimers s).bitIdx = s.bitIdx := rfl
@[simp] theorem countTimers_wordIdx (s : State) :
    (countTimers s).wordIdx = s.wordIdx := rfl
@[simp] theorem countTimers_valid (s : State) :
    (countTimers s).valid = s.valid := rfl
@[simp] theorem countTimers_rxWords (s : State) :
    (countTimers s).rxWords = s.rxWords := rfl
@[simp] theorem countTimers_pubWords (s : State) :
    (countTimers s).pubWords = s.pubWords := rfl
@[simp] theorem countTimers_pubLen (s : State) :
    (countTimers s).pubLen = s.pubLen := rfl
@[simp] theorem countTimers_pubValid (s : State) :
    (countTimers s).pubValid = s.pubValid := rfl
@[simp] theorem countTimers_dataReady (s : State) :
    (countTimers s).dataReady = s.dataReady := rfl
@[simp] theorem countTimers_transmitting (s : State) :
    (countTimers s).transmitting = s.transmitting := rfl
@[simp] theorem countTimers_txWords (s : State) :
    (countTimers s).txWords = s.txWords := rfl
@[simp] theorem countTimers_txBitLen (s : State) :
    (countTimers s).txBitLen = s.txBitLen := rfl
@[simp] theorem countTimers_txCursor (s : State) :
    (countTimers s).txCursor = s.txCursor := rfl
@[simp] theorem countTimers_txRemaining (s : State) :
    (countTimers s).txRemaining = s.txRemaining := rfl
@[simp] theorem countTimers_txNext (s : State) :
    (countTimers s).txNext = s.txNext := rfl
@[simp] theorem countTimers_txTimerRun (s : State) :
    (countTimers s).txTimerRun = s.txTimerRun := rfl
@[simp] theorem countTimers_carrierOn (s : State) :
    (countTimers s).carrierOn = s.carrierOn := rfl
@[simp] theorem countTimers_txEnableOut (s : State) :
    (countTimers s).txEnableOut = s.txEnableOut := rfl
@[simp] theorem countTimers_fault (s : State) :
    (countTimers s).fault = s.fault := rfl
@[simp] theorem countTimers_input (s : State) :
    (countTimers s).input = s.input := rfl
@[simp] theorem countTimers_response (s : State) :
    (countTimers s).response = s.response := rfl
@[simp] theorem countTimers_trace (s : State) :
    (countTimers s).trace = s.trace := rfl

/-! ### The outputs and the timer off (R128) -/

@[simp] theorem stopOutputs_rxConfigured (s : State) :
    (stopOutputs s).rxConfigured = s.rxConfigured := rfl
@[simp] theorem stopOutputs_txConfigured (s : State) :
    (stopOutputs s).txConfigured = s.txConfigured := rfl
@[simp] theorem stopOutputs_rxEnabled (s : State) :
    (stopOutputs s).rxEnabled = s.rxEnabled := rfl
@[simp] theorem stopOutputs_edgeCnt (s : State) :
    (stopOutputs s).edgeCnt = s.edgeCnt := rfl
@[simp] theorem stopOutputs_btoRun (s : State) :
    (stopOutputs s).btoRun = s.btoRun := rfl
@[simp] theorem stopOutputs_btoCnt (s : State) :
    (stopOutputs s).btoCnt = s.btoCnt := rfl
@[simp] theorem stopOutputs_ftoRun (s : State) :
    (stopOutputs s).ftoRun = s.ftoRun := rfl
@[simp] theorem stopOutputs_ftoCnt (s : State) :
    (stopOutputs s).ftoCnt = s.ftoCnt := rfl
@[simp] theorem stopOutputs_pulseCnt (s : State) :
    (stopOutputs s).pulseCnt = s.pulseCnt := rfl
@[simp] theorem stopOutputs_bitRx (s : State) :
    (stopOutputs s).bitRx = s.bitRx := rfl
@[simp] theorem stopOutputs_streamRx (s : State) :
    (stopOutputs s).streamRx = s.streamRx := rfl
@[simp] theorem stopOutputs_threshold (s : State) :
    (stopOutputs s).threshold = s.threshold := rfl
@[simp] theorem stopOutputs_startFlag (s : State) :
    (stopOutputs s).startFlag = s.startFlag := rfl
@[simp] theorem stopOutputs_bitIdx (s : State) :
    (stopOutputs s).bitIdx = s.bitIdx := rfl
@[simp] theorem stopOutputs_wordIdx (s : State) :
    (stopOutputs s).wordIdx = s.wordIdx := rfl
@[simp] theorem stopOutputs_valid (s : State) :
    (stopOutputs s).valid = s.valid := rfl
@[simp] theorem stopOutputs_rxWords (s : State) :
    (stopOutputs s).rxWords = s.rxWords := rfl
@[simp] theorem stopOutputs_pubWords (s : State) :
    (stopOutputs s).pubWords = s.pubWords := rfl
@[simp] theorem stopOutputs_pubLen (s : State) :
    (stopOutputs s).pubLen = s.pubLen := rfl
@[simp] theorem stopOutputs_pubValid (s : State) :
    (stopOutputs s).pubValid = s.pubValid := rfl
@[simp] theorem stopOutputs_dataReady (s : State) :
    (stopOutputs s).dataReady = s.dataReady := rfl
@[simp] theorem stopOutputs_transmitting (s : State) :
    (stopOutputs s).transmitting = false := rfl
@[simp] theorem stopOutputs_txWords (s : State) :
    (stopOutputs s).txWords = s.txWords := rfl
@[simp] theorem stopOutputs_txBitLen (s : State) :
    (stopOutputs s).txBitLen = s.txBitLen := rfl
@[simp] theorem stopOutputs_txCursor (s : State) :
    (stopOutputs s).txCursor = s.txCursor := rfl
@[simp] theorem stopOutputs_txRemaining (s : State) :
    (stopOutputs s).txRemaining = s.txRemaining := rfl
@[simp] theorem stopOutputs_txNext (s : State) :
    (stopOutputs s).txNext = s.txNext := rfl
@[simp] theorem stopOutputs_txTimerRun (s : State) :
    (stopOutputs s).txTimerRun = false := rfl
@[simp] theorem stopOutputs_carrierOn (s : State) :
    (stopOutputs s).carrierOn = false := rfl
@[simp] theorem stopOutputs_txEnableOut (s : State) :
    (stopOutputs s).txEnableOut = false := rfl
@[simp] theorem stopOutputs_fault (s : State) :
    (stopOutputs s).fault = s.fault := rfl
@[simp] theorem stopOutputs_input (s : State) :
    (stopOutputs s).input = s.input := rfl
@[simp] theorem stopOutputs_response (s : State) :
    (stopOutputs s).response = s.response := rfl
@[simp] theorem stopOutputs_trace (s : State) :
    (stopOutputs s).trace = s.trace := rfl

/-! ### The countdown phase (R125) -/

@[simp] theorem countdown_rxConfigured (s : State) :
    (countdown s).rxConfigured = s.rxConfigured := rfl
@[simp] theorem countdown_txConfigured (s : State) :
    (countdown s).txConfigured = s.txConfigured := rfl
@[simp] theorem countdown_rxEnabled (s : State) :
    (countdown s).rxEnabled = s.rxEnabled := rfl
@[simp] theorem countdown_edgeCnt (s : State) :
    (countdown s).edgeCnt = s.edgeCnt := rfl
@[simp] theorem countdown_btoRun (s : State) :
    (countdown s).btoRun = s.btoRun := rfl
@[simp] theorem countdown_btoCnt (s : State) :
    (countdown s).btoCnt = s.btoCnt := rfl
@[simp] theorem countdown_ftoRun (s : State) :
    (countdown s).ftoRun = s.ftoRun := rfl
@[simp] theorem countdown_ftoCnt (s : State) :
    (countdown s).ftoCnt = s.ftoCnt := rfl
@[simp] theorem countdown_pulseCnt (s : State) :
    (countdown s).pulseCnt = s.pulseCnt := rfl
@[simp] theorem countdown_bitRx (s : State) :
    (countdown s).bitRx = s.bitRx := rfl
@[simp] theorem countdown_streamRx (s : State) :
    (countdown s).streamRx = s.streamRx := rfl
@[simp] theorem countdown_threshold (s : State) :
    (countdown s).threshold = s.threshold := rfl
@[simp] theorem countdown_startFlag (s : State) :
    (countdown s).startFlag = s.startFlag := rfl
@[simp] theorem countdown_bitIdx (s : State) :
    (countdown s).bitIdx = s.bitIdx := rfl
@[simp] theorem countdown_wordIdx (s : State) :
    (countdown s).wordIdx = s.wordIdx := rfl
@[simp] theorem countdown_valid (s : State) :
    (countdown s).valid = s.valid := rfl
@[simp] theorem countdown_rxWords (s : State) :
    (countdown s).rxWords = s.rxWords := rfl
@[simp] theorem countdown_pubWords (s : State) :
    (countdown s).pubWords = s.pubWords := rfl
@[simp] theorem countdown_pubLen (s : State) :
    (countdown s).pubLen = s.pubLen := rfl
@[simp] theorem countdown_pubValid (s : State) :
    (countdown s).pubValid = s.pubValid := rfl
@[simp] theorem countdown_dataReady (s : State) :
    (countdown s).dataReady = s.dataReady := rfl
@[simp] theorem countdown_transmitting (s : State) :
    (countdown s).transmitting = s.transmitting := rfl
@[simp] theorem countdown_txWords (s : State) :
    (countdown s).txWords = s.txWords := rfl
@[simp] theorem countdown_txBitLen (s : State) :
    (countdown s).txBitLen = s.txBitLen := rfl
@[simp] theorem countdown_txCursor (s : State) :
    (countdown s).txCursor = s.txCursor := rfl
@[simp] theorem countdown_txRemaining (s : State) :
    (countdown s).txRemaining = s.txRemaining - 1 := rfl
@[simp] theorem countdown_txNext (s : State) :
    (countdown s).txNext = s.txNext := rfl
@[simp] theorem countdown_txTimerRun (s : State) :
    (countdown s).txTimerRun = s.txTimerRun := rfl
@[simp] theorem countdown_carrierOn (s : State) :
    (countdown s).carrierOn = s.carrierOn := rfl
@[simp] theorem countdown_txEnableOut (s : State) :
    (countdown s).txEnableOut = s.txEnableOut := rfl
@[simp] theorem countdown_fault (s : State) :
    (countdown s).fault = s.fault := rfl
@[simp] theorem countdown_input (s : State) :
    (countdown s).input = s.input := rfl
@[simp] theorem countdown_response (s : State) :
    (countdown s).response = s.response := rfl
@[simp] theorem countdown_trace (s : State) :
    (countdown s).trace = s.trace := rfl

/-! ### The start burst (R126) -/

@[simp] theorem loadStart_rxConfigured (c : Cfg) (s : State) :
    (loadStart c s).rxConfigured = s.rxConfigured := rfl
@[simp] theorem loadStart_txConfigured (c : Cfg) (s : State) :
    (loadStart c s).txConfigured = s.txConfigured := rfl
@[simp] theorem loadStart_rxEnabled (c : Cfg) (s : State) :
    (loadStart c s).rxEnabled = s.rxEnabled := rfl
@[simp] theorem loadStart_edgeCnt (c : Cfg) (s : State) :
    (loadStart c s).edgeCnt = s.edgeCnt := rfl
@[simp] theorem loadStart_btoRun (c : Cfg) (s : State) :
    (loadStart c s).btoRun = s.btoRun := rfl
@[simp] theorem loadStart_btoCnt (c : Cfg) (s : State) :
    (loadStart c s).btoCnt = s.btoCnt := rfl
@[simp] theorem loadStart_ftoRun (c : Cfg) (s : State) :
    (loadStart c s).ftoRun = s.ftoRun := rfl
@[simp] theorem loadStart_ftoCnt (c : Cfg) (s : State) :
    (loadStart c s).ftoCnt = s.ftoCnt := rfl
@[simp] theorem loadStart_pulseCnt (c : Cfg) (s : State) :
    (loadStart c s).pulseCnt = s.pulseCnt := rfl
@[simp] theorem loadStart_bitRx (c : Cfg) (s : State) :
    (loadStart c s).bitRx = s.bitRx := rfl
@[simp] theorem loadStart_streamRx (c : Cfg) (s : State) :
    (loadStart c s).streamRx = s.streamRx := rfl
@[simp] theorem loadStart_threshold (c : Cfg) (s : State) :
    (loadStart c s).threshold = s.threshold := rfl
@[simp] theorem loadStart_startFlag (c : Cfg) (s : State) :
    (loadStart c s).startFlag = s.startFlag := rfl
@[simp] theorem loadStart_bitIdx (c : Cfg) (s : State) :
    (loadStart c s).bitIdx = s.bitIdx := rfl
@[simp] theorem loadStart_wordIdx (c : Cfg) (s : State) :
    (loadStart c s).wordIdx = s.wordIdx := rfl
@[simp] theorem loadStart_valid (c : Cfg) (s : State) :
    (loadStart c s).valid = s.valid := rfl
@[simp] theorem loadStart_rxWords (c : Cfg) (s : State) :
    (loadStart c s).rxWords = s.rxWords := rfl
@[simp] theorem loadStart_pubWords (c : Cfg) (s : State) :
    (loadStart c s).pubWords = s.pubWords := rfl
@[simp] theorem loadStart_pubLen (c : Cfg) (s : State) :
    (loadStart c s).pubLen = s.pubLen := rfl
@[simp] theorem loadStart_pubValid (c : Cfg) (s : State) :
    (loadStart c s).pubValid = s.pubValid := rfl
@[simp] theorem loadStart_dataReady (c : Cfg) (s : State) :
    (loadStart c s).dataReady = s.dataReady := rfl
@[simp] theorem loadStart_transmitting (c : Cfg) (s : State) :
    (loadStart c s).transmitting = s.transmitting := rfl
@[simp] theorem loadStart_txWords (c : Cfg) (s : State) :
    (loadStart c s).txWords = s.txWords := rfl
@[simp] theorem loadStart_txBitLen (c : Cfg) (s : State) :
    (loadStart c s).txBitLen = s.txBitLen := rfl
@[simp] theorem loadStart_txCursor (c : Cfg) (s : State) :
    (loadStart c s).txCursor = s.txCursor := rfl
@[simp] theorem loadStart_txRemaining (c : Cfg) (s : State) :
    (loadStart c s).txRemaining = BitVec.ofNat 16 c.startbitPulsenum := rfl
@[simp] theorem loadStart_txNext (c : Cfg) (s : State) :
    (loadStart c s).txNext = .pause := rfl
@[simp] theorem loadStart_txTimerRun (c : Cfg) (s : State) :
    (loadStart c s).txTimerRun = s.txTimerRun := rfl
@[simp] theorem loadStart_carrierOn (c : Cfg) (s : State) :
    (loadStart c s).carrierOn = true := rfl
@[simp] theorem loadStart_txEnableOut (c : Cfg) (s : State) :
    (loadStart c s).txEnableOut = s.txEnableOut := rfl
@[simp] theorem loadStart_fault (c : Cfg) (s : State) :
    (loadStart c s).fault = s.fault := rfl
@[simp] theorem loadStart_input (c : Cfg) (s : State) :
    (loadStart c s).input = s.input := rfl
@[simp] theorem loadStart_response (c : Cfg) (s : State) :
    (loadStart c s).response = s.response := rfl
@[simp] theorem loadStart_trace (c : Cfg) (s : State) :
    (loadStart c s).trace = s.trace := rfl

/-! ### A data burst (R126) -/

@[simp] theorem loadData_rxConfigured (c : Cfg) (s : State) :
    (loadData c s).rxConfigured = s.rxConfigured := rfl
@[simp] theorem loadData_txConfigured (c : Cfg) (s : State) :
    (loadData c s).txConfigured = s.txConfigured := rfl
@[simp] theorem loadData_rxEnabled (c : Cfg) (s : State) :
    (loadData c s).rxEnabled = s.rxEnabled := rfl
@[simp] theorem loadData_edgeCnt (c : Cfg) (s : State) :
    (loadData c s).edgeCnt = s.edgeCnt := rfl
@[simp] theorem loadData_btoRun (c : Cfg) (s : State) :
    (loadData c s).btoRun = s.btoRun := rfl
@[simp] theorem loadData_btoCnt (c : Cfg) (s : State) :
    (loadData c s).btoCnt = s.btoCnt := rfl
@[simp] theorem loadData_ftoRun (c : Cfg) (s : State) :
    (loadData c s).ftoRun = s.ftoRun := rfl
@[simp] theorem loadData_ftoCnt (c : Cfg) (s : State) :
    (loadData c s).ftoCnt = s.ftoCnt := rfl
@[simp] theorem loadData_pulseCnt (c : Cfg) (s : State) :
    (loadData c s).pulseCnt = s.pulseCnt := rfl
@[simp] theorem loadData_bitRx (c : Cfg) (s : State) :
    (loadData c s).bitRx = s.bitRx := rfl
@[simp] theorem loadData_streamRx (c : Cfg) (s : State) :
    (loadData c s).streamRx = s.streamRx := rfl
@[simp] theorem loadData_threshold (c : Cfg) (s : State) :
    (loadData c s).threshold = s.threshold := rfl
@[simp] theorem loadData_startFlag (c : Cfg) (s : State) :
    (loadData c s).startFlag = s.startFlag := rfl
@[simp] theorem loadData_bitIdx (c : Cfg) (s : State) :
    (loadData c s).bitIdx = s.bitIdx := rfl
@[simp] theorem loadData_wordIdx (c : Cfg) (s : State) :
    (loadData c s).wordIdx = s.wordIdx := rfl
@[simp] theorem loadData_valid (c : Cfg) (s : State) :
    (loadData c s).valid = s.valid := rfl
@[simp] theorem loadData_rxWords (c : Cfg) (s : State) :
    (loadData c s).rxWords = s.rxWords := rfl
@[simp] theorem loadData_pubWords (c : Cfg) (s : State) :
    (loadData c s).pubWords = s.pubWords := rfl
@[simp] theorem loadData_pubLen (c : Cfg) (s : State) :
    (loadData c s).pubLen = s.pubLen := rfl
@[simp] theorem loadData_pubValid (c : Cfg) (s : State) :
    (loadData c s).pubValid = s.pubValid := rfl
@[simp] theorem loadData_dataReady (c : Cfg) (s : State) :
    (loadData c s).dataReady = s.dataReady := rfl
@[simp] theorem loadData_transmitting (c : Cfg) (s : State) :
    (loadData c s).transmitting = s.transmitting := rfl
@[simp] theorem loadData_txWords (c : Cfg) (s : State) :
    (loadData c s).txWords = s.txWords := rfl
@[simp] theorem loadData_txBitLen (c : Cfg) (s : State) :
    (loadData c s).txBitLen = s.txBitLen := rfl
@[simp] theorem loadData_txCursor (c : Cfg) (s : State) :
    (loadData c s).txCursor = s.txCursor + 1 := rfl
@[simp] theorem loadData_txRemaining (c : Cfg) (s : State) :
    (loadData c s).txRemaining = pulseLengthForBit c (txBit s.txWords s.txCursor) := rfl
@[simp] theorem loadData_txNext (c : Cfg) (s : State) :
    (loadData c s).txNext = .pause := rfl
@[simp] theorem loadData_txTimerRun (c : Cfg) (s : State) :
    (loadData c s).txTimerRun = s.txTimerRun := rfl
@[simp] theorem loadData_carrierOn (c : Cfg) (s : State) :
    (loadData c s).carrierOn = true := rfl
@[simp] theorem loadData_txEnableOut (c : Cfg) (s : State) :
    (loadData c s).txEnableOut = s.txEnableOut := rfl
@[simp] theorem loadData_fault (c : Cfg) (s : State) :
    (loadData c s).fault = s.fault := rfl
@[simp] theorem loadData_input (c : Cfg) (s : State) :
    (loadData c s).input = s.input := rfl
@[simp] theorem loadData_response (c : Cfg) (s : State) :
    (loadData c s).response = s.response := rfl
@[simp] theorem loadData_trace (c : Cfg) (s : State) :
    (loadData c s).trace = s.trace := rfl

/-! ### A pause (R126) -/

@[simp] theorem loadPause_rxConfigured (c : Cfg) (s : State) :
    (loadPause c s).rxConfigured = s.rxConfigured := rfl
@[simp] theorem loadPause_txConfigured (c : Cfg) (s : State) :
    (loadPause c s).txConfigured = s.txConfigured := rfl
@[simp] theorem loadPause_rxEnabled (c : Cfg) (s : State) :
    (loadPause c s).rxEnabled = s.rxEnabled := rfl
@[simp] theorem loadPause_edgeCnt (c : Cfg) (s : State) :
    (loadPause c s).edgeCnt = s.edgeCnt := rfl
@[simp] theorem loadPause_btoRun (c : Cfg) (s : State) :
    (loadPause c s).btoRun = s.btoRun := rfl
@[simp] theorem loadPause_btoCnt (c : Cfg) (s : State) :
    (loadPause c s).btoCnt = s.btoCnt := rfl
@[simp] theorem loadPause_ftoRun (c : Cfg) (s : State) :
    (loadPause c s).ftoRun = s.ftoRun := rfl
@[simp] theorem loadPause_ftoCnt (c : Cfg) (s : State) :
    (loadPause c s).ftoCnt = s.ftoCnt := rfl
@[simp] theorem loadPause_pulseCnt (c : Cfg) (s : State) :
    (loadPause c s).pulseCnt = s.pulseCnt := rfl
@[simp] theorem loadPause_bitRx (c : Cfg) (s : State) :
    (loadPause c s).bitRx = s.bitRx := rfl
@[simp] theorem loadPause_streamRx (c : Cfg) (s : State) :
    (loadPause c s).streamRx = s.streamRx := rfl
@[simp] theorem loadPause_threshold (c : Cfg) (s : State) :
    (loadPause c s).threshold = s.threshold := rfl
@[simp] theorem loadPause_startFlag (c : Cfg) (s : State) :
    (loadPause c s).startFlag = s.startFlag := rfl
@[simp] theorem loadPause_bitIdx (c : Cfg) (s : State) :
    (loadPause c s).bitIdx = s.bitIdx := rfl
@[simp] theorem loadPause_wordIdx (c : Cfg) (s : State) :
    (loadPause c s).wordIdx = s.wordIdx := rfl
@[simp] theorem loadPause_valid (c : Cfg) (s : State) :
    (loadPause c s).valid = s.valid := rfl
@[simp] theorem loadPause_rxWords (c : Cfg) (s : State) :
    (loadPause c s).rxWords = s.rxWords := rfl
@[simp] theorem loadPause_pubWords (c : Cfg) (s : State) :
    (loadPause c s).pubWords = s.pubWords := rfl
@[simp] theorem loadPause_pubLen (c : Cfg) (s : State) :
    (loadPause c s).pubLen = s.pubLen := rfl
@[simp] theorem loadPause_pubValid (c : Cfg) (s : State) :
    (loadPause c s).pubValid = s.pubValid := rfl
@[simp] theorem loadPause_dataReady (c : Cfg) (s : State) :
    (loadPause c s).dataReady = s.dataReady := rfl
@[simp] theorem loadPause_transmitting (c : Cfg) (s : State) :
    (loadPause c s).transmitting = s.transmitting := rfl
@[simp] theorem loadPause_txWords (c : Cfg) (s : State) :
    (loadPause c s).txWords = s.txWords := rfl
@[simp] theorem loadPause_txBitLen (c : Cfg) (s : State) :
    (loadPause c s).txBitLen = s.txBitLen := rfl
@[simp] theorem loadPause_txCursor (c : Cfg) (s : State) :
    (loadPause c s).txCursor = s.txCursor := rfl
@[simp] theorem loadPause_txRemaining (c : Cfg) (s : State) :
    (loadPause c s).txRemaining = BitVec.ofNat 16 c.pausePulsenum := rfl
@[simp] theorem loadPause_txNext (c : Cfg) (s : State) :
    (loadPause c s).txNext = .data := rfl
@[simp] theorem loadPause_txTimerRun (c : Cfg) (s : State) :
    (loadPause c s).txTimerRun = s.txTimerRun := rfl
@[simp] theorem loadPause_carrierOn (c : Cfg) (s : State) :
    (loadPause c s).carrierOn = false := rfl
@[simp] theorem loadPause_txEnableOut (c : Cfg) (s : State) :
    (loadPause c s).txEnableOut = s.txEnableOut := rfl
@[simp] theorem loadPause_fault (c : Cfg) (s : State) :
    (loadPause c s).fault = s.fault := rfl
@[simp] theorem loadPause_input (c : Cfg) (s : State) :
    (loadPause c s).input = s.input := rfl
@[simp] theorem loadPause_response (c : Cfg) (s : State) :
    (loadPause c s).response = s.response := rfl
@[simp] theorem loadPause_trace (c : Cfg) (s : State) :
    (loadPause c s).trace = s.trace := rfl

/-! ### The publication (R101) -/

@[simp] theorem publish_rxConfigured (c : Cfg) (s : State) :
    (publish c s).rxConfigured = s.rxConfigured := rfl
@[simp] theorem publish_txConfigured (c : Cfg) (s : State) :
    (publish c s).txConfigured = s.txConfigured := rfl
@[simp] theorem publish_rxEnabled (c : Cfg) (s : State) :
    (publish c s).rxEnabled = s.rxEnabled := rfl
@[simp] theorem publish_edgeCnt (c : Cfg) (s : State) :
    (publish c s).edgeCnt = s.edgeCnt := rfl
@[simp] theorem publish_btoRun (c : Cfg) (s : State) :
    (publish c s).btoRun = s.btoRun := rfl
@[simp] theorem publish_btoCnt (c : Cfg) (s : State) :
    (publish c s).btoCnt = s.btoCnt := rfl
@[simp] theorem publish_ftoRun (c : Cfg) (s : State) :
    (publish c s).ftoRun = s.ftoRun := rfl
@[simp] theorem publish_ftoCnt (c : Cfg) (s : State) :
    (publish c s).ftoCnt = s.ftoCnt := rfl
@[simp] theorem publish_pulseCnt (c : Cfg) (s : State) :
    (publish c s).pulseCnt = s.pulseCnt := rfl
@[simp] theorem publish_bitRx (c : Cfg) (s : State) :
    (publish c s).bitRx = s.bitRx := rfl
@[simp] theorem publish_streamRx (c : Cfg) (s : State) :
    (publish c s).streamRx = s.streamRx := rfl
@[simp] theorem publish_threshold (c : Cfg) (s : State) :
    (publish c s).threshold = s.threshold := rfl
@[simp] theorem publish_startFlag (c : Cfg) (s : State) :
    (publish c s).startFlag = s.startFlag := rfl
@[simp] theorem publish_bitIdx (c : Cfg) (s : State) :
    (publish c s).bitIdx = s.bitIdx := rfl
@[simp] theorem publish_wordIdx (c : Cfg) (s : State) :
    (publish c s).wordIdx = s.wordIdx := rfl
@[simp] theorem publish_valid (c : Cfg) (s : State) :
    (publish c s).valid = (s.valid && crcMatches c s.rxWords s.wordIdx.toNat) := rfl
@[simp] theorem publish_rxWords (c : Cfg) (s : State) :
    (publish c s).rxWords = s.rxWords := rfl
@[simp] theorem publish_pubWords (c : Cfg) (s : State) :
    (publish c s).pubWords = bufWriteAll s.pubWords 0 (bufReadAll s.rxWords s.wordIdx.toNat) := rfl
@[simp] theorem publish_pubLen (c : Cfg) (s : State) :
    (publish c s).pubLen = s.wordIdx := rfl
@[simp] theorem publish_pubValid (c : Cfg) (s : State) :
    (publish c s).pubValid = (s.valid && crcMatches c s.rxWords s.wordIdx.toNat) := rfl
@[simp] theorem publish_dataReady (c : Cfg) (s : State) :
    (publish c s).dataReady = true := rfl
@[simp] theorem publish_transmitting (c : Cfg) (s : State) :
    (publish c s).transmitting = s.transmitting := rfl
@[simp] theorem publish_txWords (c : Cfg) (s : State) :
    (publish c s).txWords = s.txWords := rfl
@[simp] theorem publish_txBitLen (c : Cfg) (s : State) :
    (publish c s).txBitLen = s.txBitLen := rfl
@[simp] theorem publish_txCursor (c : Cfg) (s : State) :
    (publish c s).txCursor = s.txCursor := rfl
@[simp] theorem publish_txRemaining (c : Cfg) (s : State) :
    (publish c s).txRemaining = s.txRemaining := rfl
@[simp] theorem publish_txNext (c : Cfg) (s : State) :
    (publish c s).txNext = s.txNext := rfl
@[simp] theorem publish_txTimerRun (c : Cfg) (s : State) :
    (publish c s).txTimerRun = s.txTimerRun := rfl
@[simp] theorem publish_carrierOn (c : Cfg) (s : State) :
    (publish c s).carrierOn = s.carrierOn := rfl
@[simp] theorem publish_txEnableOut (c : Cfg) (s : State) :
    (publish c s).txEnableOut = s.txEnableOut := rfl
@[simp] theorem publish_fault (c : Cfg) (s : State) :
    (publish c s).fault = s.fault := rfl
@[simp] theorem publish_input (c : Cfg) (s : State) :
    (publish c s).input = s.input := rfl
@[simp] theorem publish_response (c : Cfg) (s : State) :
    (publish c s).response = s.response := rfl
@[simp] theorem publish_trace (c : Cfg) (s : State) :
    (publish c s).trace = s.trace := rfl

/-! ### The start-bit case (R104) -/

@[simp] theorem loadThreshold_rxConfigured (c : Cfg) (cnt : Count) (s : State) :
    (loadThreshold c cnt s).rxConfigured = s.rxConfigured := rfl
@[simp] theorem loadThreshold_txConfigured (c : Cfg) (cnt : Count) (s : State) :
    (loadThreshold c cnt s).txConfigured = s.txConfigured := rfl
@[simp] theorem loadThreshold_rxEnabled (c : Cfg) (cnt : Count) (s : State) :
    (loadThreshold c cnt s).rxEnabled = s.rxEnabled := rfl
@[simp] theorem loadThreshold_edgeCnt (c : Cfg) (cnt : Count) (s : State) :
    (loadThreshold c cnt s).edgeCnt = s.edgeCnt := rfl
@[simp] theorem loadThreshold_btoRun (c : Cfg) (cnt : Count) (s : State) :
    (loadThreshold c cnt s).btoRun = s.btoRun := rfl
@[simp] theorem loadThreshold_btoCnt (c : Cfg) (cnt : Count) (s : State) :
    (loadThreshold c cnt s).btoCnt = s.btoCnt := rfl
@[simp] theorem loadThreshold_ftoRun (c : Cfg) (cnt : Count) (s : State) :
    (loadThreshold c cnt s).ftoRun = s.ftoRun := rfl
@[simp] theorem loadThreshold_ftoCnt (c : Cfg) (cnt : Count) (s : State) :
    (loadThreshold c cnt s).ftoCnt = s.ftoCnt := rfl
@[simp] theorem loadThreshold_pulseCnt (c : Cfg) (cnt : Count) (s : State) :
    (loadThreshold c cnt s).pulseCnt = s.pulseCnt := rfl
@[simp] theorem loadThreshold_bitRx (c : Cfg) (cnt : Count) (s : State) :
    (loadThreshold c cnt s).bitRx = s.bitRx := rfl
@[simp] theorem loadThreshold_streamRx (c : Cfg) (cnt : Count) (s : State) :
    (loadThreshold c cnt s).streamRx = s.streamRx := rfl
@[simp] theorem loadThreshold_threshold (c : Cfg) (cnt : Count) (s : State) :
    (loadThreshold c cnt s).threshold = thresholdOf c cnt := rfl
@[simp] theorem loadThreshold_startFlag (c : Cfg) (cnt : Count) (s : State) :
    (loadThreshold c cnt s).startFlag = false := rfl
@[simp] theorem loadThreshold_bitIdx (c : Cfg) (cnt : Count) (s : State) :
    (loadThreshold c cnt s).bitIdx = s.bitIdx := rfl
@[simp] theorem loadThreshold_wordIdx (c : Cfg) (cnt : Count) (s : State) :
    (loadThreshold c cnt s).wordIdx = s.wordIdx := rfl
@[simp] theorem loadThreshold_valid (c : Cfg) (cnt : Count) (s : State) :
    (loadThreshold c cnt s).valid = s.valid := rfl
@[simp] theorem loadThreshold_rxWords (c : Cfg) (cnt : Count) (s : State) :
    (loadThreshold c cnt s).rxWords = s.rxWords := rfl
@[simp] theorem loadThreshold_pubWords (c : Cfg) (cnt : Count) (s : State) :
    (loadThreshold c cnt s).pubWords = s.pubWords := rfl
@[simp] theorem loadThreshold_pubLen (c : Cfg) (cnt : Count) (s : State) :
    (loadThreshold c cnt s).pubLen = s.pubLen := rfl
@[simp] theorem loadThreshold_pubValid (c : Cfg) (cnt : Count) (s : State) :
    (loadThreshold c cnt s).pubValid = s.pubValid := rfl
@[simp] theorem loadThreshold_dataReady (c : Cfg) (cnt : Count) (s : State) :
    (loadThreshold c cnt s).dataReady = s.dataReady := rfl
@[simp] theorem loadThreshold_transmitting (c : Cfg) (cnt : Count) (s : State) :
    (loadThreshold c cnt s).transmitting = s.transmitting := rfl
@[simp] theorem loadThreshold_txWords (c : Cfg) (cnt : Count) (s : State) :
    (loadThreshold c cnt s).txWords = s.txWords := rfl
@[simp] theorem loadThreshold_txBitLen (c : Cfg) (cnt : Count) (s : State) :
    (loadThreshold c cnt s).txBitLen = s.txBitLen := rfl
@[simp] theorem loadThreshold_txCursor (c : Cfg) (cnt : Count) (s : State) :
    (loadThreshold c cnt s).txCursor = s.txCursor := rfl
@[simp] theorem loadThreshold_txRemaining (c : Cfg) (cnt : Count) (s : State) :
    (loadThreshold c cnt s).txRemaining = s.txRemaining := rfl
@[simp] theorem loadThreshold_txNext (c : Cfg) (cnt : Count) (s : State) :
    (loadThreshold c cnt s).txNext = s.txNext := rfl
@[simp] theorem loadThreshold_txTimerRun (c : Cfg) (cnt : Count) (s : State) :
    (loadThreshold c cnt s).txTimerRun = s.txTimerRun := rfl
@[simp] theorem loadThreshold_carrierOn (c : Cfg) (cnt : Count) (s : State) :
    (loadThreshold c cnt s).carrierOn = s.carrierOn := rfl
@[simp] theorem loadThreshold_txEnableOut (c : Cfg) (cnt : Count) (s : State) :
    (loadThreshold c cnt s).txEnableOut = s.txEnableOut := rfl
@[simp] theorem loadThreshold_fault (c : Cfg) (cnt : Count) (s : State) :
    (loadThreshold c cnt s).fault = s.fault := rfl
@[simp] theorem loadThreshold_input (c : Cfg) (cnt : Count) (s : State) :
    (loadThreshold c cnt s).input = s.input := rfl
@[simp] theorem loadThreshold_response (c : Cfg) (cnt : Count) (s : State) :
    (loadThreshold c cnt s).response = s.response := rfl
@[simp] theorem loadThreshold_trace (c : Cfg) (cnt : Count) (s : State) :
    (loadThreshold c cnt s).trace = s.trace := rfl

/-! ### A parity bit (R105) -/

@[simp] theorem parityBit_rxConfigured (c : Cfg) (b : Bool) (s : State) :
    (parityBit c b s).rxConfigured = s.rxConfigured := rfl
@[simp] theorem parityBit_txConfigured (c : Cfg) (b : Bool) (s : State) :
    (parityBit c b s).txConfigured = s.txConfigured := rfl
@[simp] theorem parityBit_rxEnabled (c : Cfg) (b : Bool) (s : State) :
    (parityBit c b s).rxEnabled = s.rxEnabled := rfl
@[simp] theorem parityBit_edgeCnt (c : Cfg) (b : Bool) (s : State) :
    (parityBit c b s).edgeCnt = s.edgeCnt := rfl
@[simp] theorem parityBit_btoRun (c : Cfg) (b : Bool) (s : State) :
    (parityBit c b s).btoRun = s.btoRun := rfl
@[simp] theorem parityBit_btoCnt (c : Cfg) (b : Bool) (s : State) :
    (parityBit c b s).btoCnt = s.btoCnt := rfl
@[simp] theorem parityBit_ftoRun (c : Cfg) (b : Bool) (s : State) :
    (parityBit c b s).ftoRun = s.ftoRun := rfl
@[simp] theorem parityBit_ftoCnt (c : Cfg) (b : Bool) (s : State) :
    (parityBit c b s).ftoCnt = s.ftoCnt := rfl
@[simp] theorem parityBit_pulseCnt (c : Cfg) (b : Bool) (s : State) :
    (parityBit c b s).pulseCnt = s.pulseCnt := rfl
@[simp] theorem parityBit_bitRx (c : Cfg) (b : Bool) (s : State) :
    (parityBit c b s).bitRx = s.bitRx := rfl
@[simp] theorem parityBit_streamRx (c : Cfg) (b : Bool) (s : State) :
    (parityBit c b s).streamRx = s.streamRx := rfl
@[simp] theorem parityBit_threshold (c : Cfg) (b : Bool) (s : State) :
    (parityBit c b s).threshold = s.threshold := rfl
@[simp] theorem parityBit_startFlag (c : Cfg) (b : Bool) (s : State) :
    (parityBit c b s).startFlag = s.startFlag := rfl
@[simp] theorem parityBit_bitIdx (c : Cfg) (b : Bool) (s : State) :
    (parityBit c b s).bitIdx = 0 := rfl
@[simp] theorem parityBit_wordIdx (c : Cfg) (b : Bool) (s : State) :
    (parityBit c b s).wordIdx = overflowGuard c (s.wordIdx.toNat + 1) := rfl
@[simp] theorem parityBit_valid (c : Cfg) (b : Bool) (s : State) :
    (parityBit c b s).valid = (s.valid && (b == parityOdd (currentWord s))) := rfl
@[simp] theorem parityBit_rxWords (c : Cfg) (b : Bool) (s : State) :
    (parityBit c b s).rxWords = s.rxWords := rfl
@[simp] theorem parityBit_pubWords (c : Cfg) (b : Bool) (s : State) :
    (parityBit c b s).pubWords = s.pubWords := rfl
@[simp] theorem parityBit_pubLen (c : Cfg) (b : Bool) (s : State) :
    (parityBit c b s).pubLen = s.pubLen := rfl
@[simp] theorem parityBit_pubValid (c : Cfg) (b : Bool) (s : State) :
    (parityBit c b s).pubValid = s.pubValid := rfl
@[simp] theorem parityBit_dataReady (c : Cfg) (b : Bool) (s : State) :
    (parityBit c b s).dataReady = s.dataReady := rfl
@[simp] theorem parityBit_transmitting (c : Cfg) (b : Bool) (s : State) :
    (parityBit c b s).transmitting = s.transmitting := rfl
@[simp] theorem parityBit_txWords (c : Cfg) (b : Bool) (s : State) :
    (parityBit c b s).txWords = s.txWords := rfl
@[simp] theorem parityBit_txBitLen (c : Cfg) (b : Bool) (s : State) :
    (parityBit c b s).txBitLen = s.txBitLen := rfl
@[simp] theorem parityBit_txCursor (c : Cfg) (b : Bool) (s : State) :
    (parityBit c b s).txCursor = s.txCursor := rfl
@[simp] theorem parityBit_txRemaining (c : Cfg) (b : Bool) (s : State) :
    (parityBit c b s).txRemaining = s.txRemaining := rfl
@[simp] theorem parityBit_txNext (c : Cfg) (b : Bool) (s : State) :
    (parityBit c b s).txNext = s.txNext := rfl
@[simp] theorem parityBit_txTimerRun (c : Cfg) (b : Bool) (s : State) :
    (parityBit c b s).txTimerRun = s.txTimerRun := rfl
@[simp] theorem parityBit_carrierOn (c : Cfg) (b : Bool) (s : State) :
    (parityBit c b s).carrierOn = s.carrierOn := rfl
@[simp] theorem parityBit_txEnableOut (c : Cfg) (b : Bool) (s : State) :
    (parityBit c b s).txEnableOut = s.txEnableOut := rfl
@[simp] theorem parityBit_fault (c : Cfg) (b : Bool) (s : State) :
    (parityBit c b s).fault = s.fault := rfl
@[simp] theorem parityBit_input (c : Cfg) (b : Bool) (s : State) :
    (parityBit c b s).input = s.input := rfl
@[simp] theorem parityBit_response (c : Cfg) (b : Bool) (s : State) :
    (parityBit c b s).response = s.response := rfl
@[simp] theorem parityBit_trace (c : Cfg) (b : Bool) (s : State) :
    (parityBit c b s).trace = s.trace := rfl

/-! ### A payload bit (R105) -/

@[simp] theorem dataBit_rxConfigured (c : Cfg) (b : Bool) (s : State) :
    (dataBit c b s).rxConfigured = s.rxConfigured := rfl
@[simp] theorem dataBit_txConfigured (c : Cfg) (b : Bool) (s : State) :
    (dataBit c b s).txConfigured = s.txConfigured := rfl
@[simp] theorem dataBit_rxEnabled (c : Cfg) (b : Bool) (s : State) :
    (dataBit c b s).rxEnabled = s.rxEnabled := rfl
@[simp] theorem dataBit_edgeCnt (c : Cfg) (b : Bool) (s : State) :
    (dataBit c b s).edgeCnt = s.edgeCnt := rfl
@[simp] theorem dataBit_btoRun (c : Cfg) (b : Bool) (s : State) :
    (dataBit c b s).btoRun = s.btoRun := rfl
@[simp] theorem dataBit_btoCnt (c : Cfg) (b : Bool) (s : State) :
    (dataBit c b s).btoCnt = s.btoCnt := rfl
@[simp] theorem dataBit_ftoRun (c : Cfg) (b : Bool) (s : State) :
    (dataBit c b s).ftoRun = s.ftoRun := rfl
@[simp] theorem dataBit_ftoCnt (c : Cfg) (b : Bool) (s : State) :
    (dataBit c b s).ftoCnt = s.ftoCnt := rfl
@[simp] theorem dataBit_pulseCnt (c : Cfg) (b : Bool) (s : State) :
    (dataBit c b s).pulseCnt = s.pulseCnt := rfl
@[simp] theorem dataBit_bitRx (c : Cfg) (b : Bool) (s : State) :
    (dataBit c b s).bitRx = s.bitRx := rfl
@[simp] theorem dataBit_streamRx (c : Cfg) (b : Bool) (s : State) :
    (dataBit c b s).streamRx = s.streamRx := rfl
@[simp] theorem dataBit_threshold (c : Cfg) (b : Bool) (s : State) :
    (dataBit c b s).threshold = s.threshold := rfl
@[simp] theorem dataBit_startFlag (c : Cfg) (b : Bool) (s : State) :
    (dataBit c b s).startFlag = s.startFlag := rfl
@[simp] theorem dataBit_bitIdx (c : Cfg) (b : Bool) (s : State) :
    (dataBit c b s).bitIdx = s.bitIdx + 1 := rfl
@[simp] theorem dataBit_wordIdx (c : Cfg) (b : Bool) (s : State) :
    (dataBit c b s).wordIdx = overflowGuard c s.wordIdx.toNat := rfl
@[simp] theorem dataBit_valid (c : Cfg) (b : Bool) (s : State) :
    (dataBit c b s).valid = s.valid := rfl
@[simp] theorem dataBit_rxWords (c : Cfg) (b : Bool) (s : State) :
    (dataBit c b s).rxWords = bufWrite s.rxWords s.wordIdx.toNat (placeBit (currentWord s) b s.bitIdx) := rfl
@[simp] theorem dataBit_pubWords (c : Cfg) (b : Bool) (s : State) :
    (dataBit c b s).pubWords = s.pubWords := rfl
@[simp] theorem dataBit_pubLen (c : Cfg) (b : Bool) (s : State) :
    (dataBit c b s).pubLen = s.pubLen := rfl
@[simp] theorem dataBit_pubValid (c : Cfg) (b : Bool) (s : State) :
    (dataBit c b s).pubValid = s.pubValid := rfl
@[simp] theorem dataBit_dataReady (c : Cfg) (b : Bool) (s : State) :
    (dataBit c b s).dataReady = s.dataReady := rfl
@[simp] theorem dataBit_transmitting (c : Cfg) (b : Bool) (s : State) :
    (dataBit c b s).transmitting = s.transmitting := rfl
@[simp] theorem dataBit_txWords (c : Cfg) (b : Bool) (s : State) :
    (dataBit c b s).txWords = s.txWords := rfl
@[simp] theorem dataBit_txBitLen (c : Cfg) (b : Bool) (s : State) :
    (dataBit c b s).txBitLen = s.txBitLen := rfl
@[simp] theorem dataBit_txCursor (c : Cfg) (b : Bool) (s : State) :
    (dataBit c b s).txCursor = s.txCursor := rfl
@[simp] theorem dataBit_txRemaining (c : Cfg) (b : Bool) (s : State) :
    (dataBit c b s).txRemaining = s.txRemaining := rfl
@[simp] theorem dataBit_txNext (c : Cfg) (b : Bool) (s : State) :
    (dataBit c b s).txNext = s.txNext := rfl
@[simp] theorem dataBit_txTimerRun (c : Cfg) (b : Bool) (s : State) :
    (dataBit c b s).txTimerRun = s.txTimerRun := rfl
@[simp] theorem dataBit_carrierOn (c : Cfg) (b : Bool) (s : State) :
    (dataBit c b s).carrierOn = s.carrierOn := rfl
@[simp] theorem dataBit_txEnableOut (c : Cfg) (b : Bool) (s : State) :
    (dataBit c b s).txEnableOut = s.txEnableOut := rfl
@[simp] theorem dataBit_fault (c : Cfg) (b : Bool) (s : State) :
    (dataBit c b s).fault = s.fault := rfl
@[simp] theorem dataBit_input (c : Cfg) (b : Bool) (s : State) :
    (dataBit c b s).input = s.input := rfl
@[simp] theorem dataBit_response (c : Cfg) (b : Bool) (s : State) :
    (dataBit c b s).response = s.response := rfl
@[simp] theorem dataBit_trace (c : Cfg) (b : Bool) (s : State) :
    (dataBit c b s).trace = s.trace := rfl

/-! ### SEND_ACCEPT (R122) -/

@[simp] theorem sendAccept_rxConfigured (c : Cfg) (bytes : List Byte) (s : State) :
    (sendAccept c bytes s).rxConfigured = s.rxConfigured := rfl
@[simp] theorem sendAccept_txConfigured (c : Cfg) (bytes : List Byte) (s : State) :
    (sendAccept c bytes s).txConfigured = s.txConfigured := rfl
@[simp] theorem sendAccept_rxEnabled (c : Cfg) (bytes : List Byte) (s : State) :
    (sendAccept c bytes s).rxEnabled = false := rfl
@[simp] theorem sendAccept_edgeCnt (c : Cfg) (bytes : List Byte) (s : State) :
    (sendAccept c bytes s).edgeCnt = 0 := rfl
@[simp] theorem sendAccept_btoRun (c : Cfg) (bytes : List Byte) (s : State) :
    (sendAccept c bytes s).btoRun = false := rfl
@[simp] theorem sendAccept_btoCnt (c : Cfg) (bytes : List Byte) (s : State) :
    (sendAccept c bytes s).btoCnt = 0 := rfl
@[simp] theorem sendAccept_ftoRun (c : Cfg) (bytes : List Byte) (s : State) :
    (sendAccept c bytes s).ftoRun = false := rfl
@[simp] theorem sendAccept_ftoCnt (c : Cfg) (bytes : List Byte) (s : State) :
    (sendAccept c bytes s).ftoCnt = 0 := rfl
@[simp] theorem sendAccept_pulseCnt (c : Cfg) (bytes : List Byte) (s : State) :
    (sendAccept c bytes s).pulseCnt = s.pulseCnt := rfl
@[simp] theorem sendAccept_bitRx (c : Cfg) (bytes : List Byte) (s : State) :
    (sendAccept c bytes s).bitRx = false := rfl
@[simp] theorem sendAccept_streamRx (c : Cfg) (bytes : List Byte) (s : State) :
    (sendAccept c bytes s).streamRx = false := rfl
@[simp] theorem sendAccept_threshold (c : Cfg) (bytes : List Byte) (s : State) :
    (sendAccept c bytes s).threshold = 0 := rfl
@[simp] theorem sendAccept_startFlag (c : Cfg) (bytes : List Byte) (s : State) :
    (sendAccept c bytes s).startFlag = true := rfl
@[simp] theorem sendAccept_bitIdx (c : Cfg) (bytes : List Byte) (s : State) :
    (sendAccept c bytes s).bitIdx = 0 := rfl
@[simp] theorem sendAccept_wordIdx (c : Cfg) (bytes : List Byte) (s : State) :
    (sendAccept c bytes s).wordIdx = 0 := rfl
@[simp] theorem sendAccept_valid (c : Cfg) (bytes : List Byte) (s : State) :
    (sendAccept c bytes s).valid = true := rfl
@[simp] theorem sendAccept_rxWords (c : Cfg) (bytes : List Byte) (s : State) :
    (sendAccept c bytes s).rxWords = s.rxWords := rfl
@[simp] theorem sendAccept_pubWords (c : Cfg) (bytes : List Byte) (s : State) :
    (sendAccept c bytes s).pubWords = s.pubWords := rfl
@[simp] theorem sendAccept_pubLen (c : Cfg) (bytes : List Byte) (s : State) :
    (sendAccept c bytes s).pubLen = s.pubLen := rfl
@[simp] theorem sendAccept_pubValid (c : Cfg) (bytes : List Byte) (s : State) :
    (sendAccept c bytes s).pubValid = s.pubValid := rfl
@[simp] theorem sendAccept_dataReady (c : Cfg) (bytes : List Byte) (s : State) :
    (sendAccept c bytes s).dataReady = s.dataReady := rfl
@[simp] theorem sendAccept_transmitting (c : Cfg) (bytes : List Byte) (s : State) :
    (sendAccept c bytes s).transmitting = true := rfl
@[simp] theorem sendAccept_txWords (c : Cfg) (bytes : List Byte) (s : State) :
    (sendAccept c bytes s).txWords = bufWriteAll s.txWords 0 (frameWords c bytes) := rfl
@[simp] theorem sendAccept_txBitLen (c : Cfg) (bytes : List Byte) (s : State) :
    (sendAccept c bytes s).txBitLen = frameBitLen bytes.length := rfl
@[simp] theorem sendAccept_txCursor (c : Cfg) (bytes : List Byte) (s : State) :
    (sendAccept c bytes s).txCursor = 0 := rfl
@[simp] theorem sendAccept_txRemaining (c : Cfg) (bytes : List Byte) (s : State) :
    (sendAccept c bytes s).txRemaining = 0 := rfl
@[simp] theorem sendAccept_txNext (c : Cfg) (bytes : List Byte) (s : State) :
    (sendAccept c bytes s).txNext = .start := rfl
@[simp] theorem sendAccept_txTimerRun (c : Cfg) (bytes : List Byte) (s : State) :
    (sendAccept c bytes s).txTimerRun = true := rfl
@[simp] theorem sendAccept_carrierOn (c : Cfg) (bytes : List Byte) (s : State) :
    (sendAccept c bytes s).carrierOn = s.carrierOn := rfl
@[simp] theorem sendAccept_txEnableOut (c : Cfg) (bytes : List Byte) (s : State) :
    (sendAccept c bytes s).txEnableOut = true := rfl
@[simp] theorem sendAccept_fault (c : Cfg) (bytes : List Byte) (s : State) :
    (sendAccept c bytes s).fault = s.fault := rfl
@[simp] theorem sendAccept_input (c : Cfg) (bytes : List Byte) (s : State) :
    (sendAccept c bytes s).input = s.input := rfl
@[simp] theorem sendAccept_response (c : Cfg) (bytes : List Byte) (s : State) :
    (sendAccept c bytes s).response = s.response := rfl
@[simp] theorem sendAccept_trace (c : Cfg) (bytes : List Byte) (s : State) :
    (sendAccept c bytes s).trace = s.trace := rfl

end Sys2Proof.Machine
end

