-- ==== Sys2Proof/Laws/Ops.lean ====
section
/-! SUPPORT. What the shared operations can do, each said once: the guard on the fault register,
the checked buffer access, the codec functions, and an operation's outcome in a running block. -/

namespace Sys2Proof.Machine

/-! ### Guards -/

@[simp] theorem whileRunning_none (s : State) (k : Host.Outcome State Fault Refusal)
    (h : s.fault = none) : whileRunning s k = k := by
  simp [whileRunning, h]

theorem whileRunning_some (s : State) (k : Host.Outcome State Fault Refusal) (code : FaultCode)
    (h : s.fault = some code) : whileRunning s k = .refused (.stuckAfterFault code) := by
  simp [whileRunning, h]

/-- A guarded operation that answers a next state ran in a block without a fault. -/
theorem whileRunning_next (s t : State) (k : Host.Outcome State Fault Refusal)
    (h : whileRunning s k = .next t) : s.fault = none ∧ k = .next t := by
  unfold whileRunning at h
  split at h
  · exact ⟨‹_›, h⟩
  · cases h

theorem needWords_le (c : Cfg) (n : Nat) (s : State) (h : n ≤ c.maxWordlen) :
    needWords c n s = .ok s := by
  simp [needWords, h]

theorem needWords_ok (c : Cfg) (n : Nat) (s t : State) (h : needWords c n s = .ok t) :
    n ≤ c.maxWordlen ∧ t = s := by
  unfold needWords at h
  split at h
  · cases h
    exact ⟨‹_›, rfl⟩
  · cases h

/-! ### The configuration -/

theorem Config_wf : Config.cfg.WF := Config.hw.wf

theorem maxWordlen_ge : 2 ≤ Config.cfg.maxWordlen := Config_wf.1.1

theorem maxWordlen_le : Config.cfg.maxWordlen ≤ 256 := Config_wf.1.2

/-! ### The codec -/

theorem thresholdOf_toNat (c : Cfg) (h : c.WF) (cnt : Count) :
    (thresholdOf c cnt).toNat = cnt.toNat * c.bitOneDivDen / c.bitOneDivNum := by
  have hd := h.2.2.2.1
  have hle : cnt.toNat * c.bitOneDivDen / c.bitOneDivNum ≤ cnt.toNat := by
    apply Nat.div_le_of_le_mul
    rw [Nat.mul_comm c.bitOneDivNum]
    exact Nat.mul_le_mul_left _ hd.2
  have := cnt.isLt
  rw [thresholdOf, BitVec.toNat_ofNat, Nat.mod_eq_of_lt (by omega)]

theorem pulseLengthForBit_toNat (c : Cfg) (h : c.WF) (b : Bool) :
    (pulseLengthForBit c b).toNat = if b then c.onePulsenum else c.zeroPulsenum := by
  have hp := h.2.2.2.2.1
  cases b <;> simp [pulseLengthForBit] <;> omega

theorem overflowGuard_lt (c : Cfg) (h : c.WF) (w : Nat) :
    (overflowGuard c w).toNat < c.maxWordlen := by
  have := h.1
  unfold overflowGuard
  split
  · change 0 < c.maxWordlen
    omega
  · rw [BitVec.toNat_ofNat, Nat.mod_eq_of_lt (by omega)]; omega

theorem overflowGuard_toNat (c : Cfg) (h : c.WF) (w : Nat) :
    (overflowGuard c w).toNat = if w ≥ c.maxWordlen then 0 else w := by
  have := h.1
  unfold overflowGuard
  split
  · rfl
  · rw [BitVec.toNat_ofNat, Nat.mod_eq_of_lt (by omega)]

theorem frameBitLen_toNat (n : Nat) (h : n ≤ 254) : (frameBitLen n).toNat = 9 * n + 9 := by
  rw [frameBitLen, BitVec.toNat_ofNat, Nat.mod_eq_of_lt (by omega)]

@[simp] theorem crc8_whole (c : Cfg) (bytes : List Byte) : crc8 c bytes bytes.length = c.crc8 bytes := by
  simp [crc8]

@[simp] theorem frameWords_length (c : Cfg) (bytes : List Byte) :
    (frameWords c bytes).length = bytes.length + 1 := by
  simp [frameWords]

/-! ### Each operation in a running block -/

/-- The hardware's operations are the operations on its own configuration. -/
theorem exec_eq_execOn (i : Instr) (s : State) : exec i s = execOn Config.cfg i s := by
  cases i <;> rfl

theorem execOn_edge (c : Cfg) (s : State) (h : s.fault = none) :
    execOn c .edge s = .next (respond [Instr.opcode .edge] [] (edgeStep c s)) := by
  simp [execOn, edgeOn, h]

theorem execOn_rxTick (c : Cfg) (s : State) (h : s.fault = none) :
    execOn c .rxTick s = .next (respond (rxTickTrace s) [] (rxTickStep s)) := by
  simp [execOn, execRxTick, h]

theorem execOn_bitTimeout (c : Cfg) (s : State) (h : s.fault = none) :
    execOn c .bitTimeout s = .next (respond [Instr.opcode .bitTimeout] [] (bitTimeout s)) := by
  simp [execOn, execBitTimeout, h]

theorem execOn_frameTimeout (c : Cfg) (s : State) (h : s.fault = none) :
    execOn c .frameTimeout s =
      .next (respond [Instr.opcode .frameTimeout] [] (frameTimeout s)) := by
  simp [execOn, execFrameTimeout, h]

theorem execOn_txTick (c : Cfg) (s : State) (h : s.fault = none) :
    execOn c .txTick s = .next (respond [Instr.opcode .txTick] [] (txTickStep c s)) := by
  simp [execOn, txTickOn, h]

theorem execOn_send (c : Cfg) (bytes : List Byte) (s : State) (h : s.fault = none) :
    execOn c (.send bytes) s = .next (sendCommand c bytes s) := by
  simp [execOn, sendOn, h]

theorem execOn_loop (c : Cfg) (s : State) (h : s.fault = none) :
    execOn c .loop s = loopCommand c s := by
  simp [execOn, loopOn, h]

theorem execOn_read (c : Cfg) (s : State) (h : s.fault = none) :
    execOn c .read s = readCommand c s := by
  simp [execOn, readOn, h]

theorem execOn_setupRx (c : Cfg) (s : State) (h : s.fault = none) :
    execOn c .setupRx s =
      .next
        (if s.rxConfigured then raiseFault .setupRepeated (Instr.opcode .setupRx) s
         else
          respond [Instr.opcode .setupRx] []
            (rxReset (setEnabled true (configureRx s)))) := by
  simp [execOn, execSetupRx, h]

theorem execOn_setupTx (c : Cfg) (s : State) (h : s.fault = none) :
    execOn c .setupTx s =
      .next
        (if s.txConfigured then raiseFault .setupRepeated (Instr.opcode .setupTx) s
         else respond [Instr.opcode .setupTx] [] (configureTx (stopOutputs s))) := by
  simp [execOn, execSetupTx, h]

theorem execOn_enable (c : Cfg) (s : State) (h : s.fault = none) :
    execOn c .enable s =
      .next
        (if s.rxConfigured then
          respond [Instr.opcode .enable] [] (rxReset (setEnabled true s))
         else raiseFault .notConfigured (Instr.opcode .enable) s) := by
  simp [execOn, execEnable, h]

theorem execOn_disable (c : Cfg) (s : State) (h : s.fault = none) :
    execOn c .disable s =
      .next
        (if s.rxConfigured then
          respond [Instr.opcode .disable] [] (rxReset (setEnabled false s))
         else raiseFault .notConfigured (Instr.opcode .disable) s) := by
  simp [execOn, execDisable, h]

/-- A faulted block refuses every operation (R150). -/
theorem execOn_stuck (c : Cfg) (i : Instr) (s : State) (code : FaultCode)
    (h : s.fault = some code) : execOn c i s = .refused (.stuckAfterFault code) := by
  cases i <;>
    simp [execOn, edgeOn, execRxTick, txTickOn, execSetupRx, execSetupTx, execEnable,
      execDisable, loopOn, readOn, sendOn, execBitTimeout, execFrameTimeout,
      whileRunning_some _ _ _ h]

/-- An operation that answers a next state ran in a block without a fault. -/
theorem execOn_next_running (c : Cfg) (i : Instr) (s t : State) (h : execOn c i s = .next t) :
    s.fault = none := by
  cases hf : s.fault with
  | none => rfl
  | some code => rw [execOn_stuck c i s code hf] at h; cases h

theorem runOps_append (c : Cfg) (xs ys : List Instr) (s t : State)
    (h : runOps c xs s = .next t) : runOps c (xs ++ ys) s = runOps c ys t := by
  induction xs generalizing s with
  | nil => cases h; rfl
  | cons i xs ih =>
    simp only [runOps, List.cons_append] at h ⊢
    cases hi : execOn c i s with
    | next u => rw [hi] at h; exact ih u h
    | fault e => rw [hi] at h; cases h
    | refused r => rw [hi] at h; cases h

theorem runOps_one (c : Cfg) (i : Instr) (s : State) : runOps c [i] s = execOn c i s := by
  simp only [runOps]
  cases execOn c i s <;> rfl

/-! ### One step -/

/-- Everything a step that answers a next state can be: an operation of the input trace run, or an
illegal opcode's fault. -/
theorem step_cases (s t : State) (h : step s = .next t) :
    s.fault = none ∧
      ((∃ i rest, decode s.input = .ok (i, rest) ∧ i.wellFormed = true ∧
          exec i { s with input := rest } = .next t) ∨
        (∃ op rest, t = raiseFault .illegalOp op { s with input := rest })) := by
  unfold step fetch at h
  cases hf : s.fault with
  | some code => simp [hf] at h
  | none =>
    refine ⟨rfl, ?_⟩
    simp only [hf] at h
    cases hd : decode s.input with
    | error e =>
      cases e with
      | noInput => simp [hd] at h
      | incompleteSend => simp [hd] at h
      | illegalOpcode b =>
        simp only [hd, Host.Outcome.next.injEq] at h
        exact .inr ⟨b, _, h.symm⟩
    | ok p =>
      obtain ⟨i, rest⟩ := p
      by_cases hw : i.wellFormed = true
      · simp only [hd, hw, if_true] at h
        exact .inl ⟨i, rest, rfl, hw, h⟩
      · simp only [hd, hw, Bool.false_eq_true, if_false, Host.Outcome.next.injEq] at h
        exact .inr ⟨i.opcode, rest, h.symm⟩

end Sys2Proof.Machine
end

