-- ==== Sys2Proof/Laws/RxDecode.lean ====
section
/-! SUPPORT. What LOOP and READ can do, each part said once. -/

namespace Sys2Proof.Machine

/-- FRAME_CLOSE with every element it reads in the buffer. -/
theorem frameClose_of_le (c : Cfg) (s : State) (h : s.wordIdx.toNat ≤ c.maxWordlen) :
    frameClose c s =
      .ok (if s.wordIdx = 0 then frameReset s else frameReset (publish c s)) := by
  unfold frameClose
  split
  · rfl
  · exact needWords_le _ _ _ h

/-- Everything FRAME_CLOSE can answer. -/
theorem frameClose_cases (c : Cfg) (s t : State) (h : frameClose c s = .ok t) :
    (s.wordIdx = 0 ∧ t = frameReset s) ∨
      (s.wordIdx ≠ 0 ∧ s.wordIdx.toNat ≤ c.maxWordlen ∧ t = frameReset (publish c s)) := by
  unfold frameClose at h
  split at h
  · cases h
    exact .inl ⟨‹_›, rfl⟩
  · obtain ⟨h1, h2⟩ := needWords_ok _ _ _ _ h
    exact .inr ⟨‹_›, h1, h2⟩

/-- Everything BIT_STEP can do: a count below BIT_MIN_LEN or a start bit too short changes nothing,
a start bit loads the threshold, and a normal bit is assembled if its Word is in the buffer. -/
theorem bitCases_cases (c : Cfg) (cnt : Count) (s : State) :
    (cnt.toNat < c.bitMinLen ∧ bitCases c cnt s = .ok s) ∨
      (c.bitMinLen ≤ cnt.toNat ∧ s.startFlag = true ∧ cnt.toNat < c.startbitMinLen ∧
        bitCases c cnt s = .ok s) ∨
      (c.bitMinLen ≤ cnt.toNat ∧ s.startFlag = true ∧ c.startbitMinLen ≤ cnt.toNat ∧
        bitCases c cnt s = .ok (loadThreshold c cnt s)) ∨
      (c.bitMinLen ≤ cnt.toNat ∧ s.startFlag = false ∧
        bitCases c cnt s =
          needWords c (s.wordIdx.toNat + 1) (assembleBit c (classify cnt s.threshold) s)) := by
  unfold bitCases pulseClass
  by_cases h1 : cnt.toNat < c.bitMinLen
  · simp [h1]
  · cases hf : s.startFlag
    · cases hb : classify cnt s.threshold <;> simp [h1, Nat.le_of_not_lt h1]
    · by_cases h2 : cnt.toNat < c.startbitMinLen <;>
        simp [h1, h2, Nat.le_of_not_lt h1, Nat.le_of_not_lt]

/-- LOOP's two branches, in order. -/
theorem loopStep_cases (c : Cfg) (s t : State) (h : loopStep c s = .ok t) :
    ∃ s1, frameBranch c s = .ok s1 ∧ bitBranch c s1 = .ok t := by
  unfold loopStep at h
  split at h
  · exact ⟨_, ‹_›, h⟩
  · cases h

/-- What a frame close leaves for the bit branch: the per-frame state reset, and a frame of at
least one Word published. -/
def closed (c : Cfg) (s : State) : State :=
  if s.wordIdx = 0 then frameReset (clearStream s) else frameReset (publish c (clearStream s))

@[simp] theorem closed_bitRx (c : Cfg) (s : State) : (closed c s).bitRx = s.bitRx := by
  unfold closed; split <;> rfl

@[simp] theorem closed_pulseCnt (c : Cfg) (s : State) : (closed c s).pulseCnt = s.pulseCnt := by
  unfold closed; split <;> rfl

@[simp] theorem closed_streamRx (c : Cfg) (s : State) : (closed c s).streamRx = false := by
  unfold closed; split <;> rfl

@[simp] theorem closed_startFlag (c : Cfg) (s : State) : (closed c s).startFlag = true := by
  unfold closed; split <;> rfl

@[simp] theorem closed_fault (c : Cfg) (s : State) : (closed c s).fault = s.fault := by
  unfold closed; split <;> rfl

@[simp] theorem closed_rxConfigured (c : Cfg) (s : State) :
    (closed c s).rxConfigured = s.rxConfigured := by
  unfold closed; split <;> rfl

/-- The frame-end branch with a frame end pending. -/
theorem frameBranch_close (c : Cfg) (s : State) (hs : s.streamRx = true)
    (h : s.wordIdx.toNat ≤ c.maxWordlen) : frameBranch c s = .ok (closed c s) := by
  unfold frameBranch
  rw [if_pos hs]
  exact frameClose_of_le c (clearStream s) h

/-- Everything the frame-end branch can leave. -/
theorem frameBranch_cases (c : Cfg) (s t : State) (h : frameBranch c s = .ok t) :
    (s.streamRx = false ∧ t = s) ∨
      (s.streamRx = true ∧ s.wordIdx.toNat ≤ c.maxWordlen ∧ t = closed c s) := by
  unfold frameBranch at h
  split at h
  · refine .inr ⟨‹_›, ?_⟩
    rcases frameClose_cases c (clearStream s) t h with ⟨h1, h2⟩ | ⟨h1, h2, h3⟩
    · have h1 : s.wordIdx = 0 := h1
      exact ⟨by simp [h1], by rw [h2, closed, if_pos h1]⟩
    · have h1 : ¬s.wordIdx = 0 := h1
      exact ⟨h2, by rw [h3, closed, if_neg h1]⟩
  · cases h
    exact .inl ⟨by simpa using ‹¬s.streamRx = true›, rfl⟩

/-- Everything the bit branch can leave: the count consumed and ignored, a threshold loaded, or a
bit assembled. -/
theorem bitBranch_cases (c : Cfg) (s t : State) (h : bitBranch c s = .ok t) :
    (s.bitRx = false ∧ t = s) ∨
      (s.bitRx = true ∧
        (t = clearBit s ∨
          (s.startFlag = true ∧ t = loadThreshold c s.pulseCnt (clearBit s)) ∨
          (s.startFlag = false ∧ s.wordIdx.toNat < c.maxWordlen ∧
            t = assembleBit c (classify s.pulseCnt s.threshold) (clearBit s)))) := by
  unfold bitBranch at h
  split at h
  · refine .inr ⟨‹_›, ?_⟩
    rcases bitCases_cases c s.pulseCnt (clearBit s) with
      ⟨-, h1⟩ | ⟨-, -, -, h1⟩ | ⟨-, h2, -, h1⟩ | ⟨-, h2, h1⟩
    · rw [h1] at h; cases h; exact .inl rfl
    · rw [h1] at h; cases h; exact .inl rfl
    · rw [h1] at h; cases h; exact .inr (.inl ⟨h2, rfl⟩)
    · rw [h1] at h
      obtain ⟨h3, h4⟩ := needWords_ok _ _ _ _ h
      exact .inr (.inr ⟨h2, h3, h4⟩)
  · cases h
    exact .inl ⟨by simpa using ‹¬s.bitRx = true›, rfl⟩

/-- LOOP with neither flag set. -/
theorem loopStep_idle (c : Cfg) (s : State) (hs : s.streamRx = false) (hb : s.bitRx = false) :
    loopStep c s = .ok s := by
  simp [loopStep, frameBranch, bitBranch, hs, hb]

/-- LOOP with a frame end alone. -/
theorem loopStep_frame (c : Cfg) (s : State) (hs : s.streamRx = true) (hb : s.bitRx = false)
    (h : s.wordIdx.toNat ≤ c.maxWordlen) : loopStep c s = .ok (closed c s) := by
  simp [loopStep, frameBranch_close c s hs h, bitBranch, hb]

/-- LOOP with a pending bit alone. -/
theorem loopStep_bit (c : Cfg) (s : State) (hs : s.streamRx = false) (hb : s.bitRx = true) :
    loopStep c s = bitCases c s.pulseCnt (clearBit s) := by
  simp [loopStep, frameBranch, bitBranch, hs, hb]

/-- LOOP with both: the bit meets the state the frame close leaves (R107). -/
theorem loopStep_both (c : Cfg) (s : State) (hs : s.streamRx = true) (hb : s.bitRx = true)
    (h : s.wordIdx.toNat ≤ c.maxWordlen) :
    loopStep c s = bitCases c s.pulseCnt (clearBit (closed c s)) := by
  simp [loopStep, frameBranch_close c s hs h, bitBranch, hb]

/-- LOOP in a running block that is set up, from what its branches leave. -/
theorem execOn_loop_of (c : Cfg) (s u : State) (hf : s.fault = none)
    (hc : s.rxConfigured = true) (h : loopStep c s = .ok u) :
    execOn c .loop s = .next (respond [Instr.opcode .loop] [] u) := by
  rw [execOn_loop c s hf]
  simp [loopCommand, hc, h]

/-- Everything a LOOP that answers a next state can be. -/
theorem loopCommand_cases (c : Cfg) (s t : State) (h : loopCommand c s = .next t) :
    (s.rxConfigured = false ∧ t = raiseFault .notConfigured (Instr.opcode .loop) s) ∨
      (s.rxConfigured = true ∧
        ∃ u, loopStep c s = .ok u ∧ t = respond [Instr.opcode .loop] [] u) := by
  unfold loopCommand at h
  split at h
  · split at h
    · cases h
      exact .inr ⟨‹_›, _, ‹_›, rfl⟩
    · cases h
  · cases h
    exact .inl ⟨by simpa using ‹¬s.rxConfigured = true›, rfl⟩

/-- Everything a READ that answers a next state can be. -/
theorem readCommand_cases (c : Cfg) (s t : State) (h : readCommand c s = .next t) :
    (s.rxConfigured = false ∧ t = raiseFault .notConfigured (Instr.opcode .read) s) ∨
      (s.rxConfigured = true ∧ s.dataReady = true ∧
        t = respond [Instr.opcode .read] (frameResponse s) (clearReady s)) ∨
      (s.rxConfigured = true ∧ s.dataReady = false ∧ t = respond [Instr.opcode .read] [0] s) := by
  unfold readCommand at h
  split at h
  · split at h
    · unfold outcomeOf at h
      split at h
      · cases h
        rename_i heq
        exact .inr (.inl ⟨‹_›, ‹_›, (needWords_ok _ _ _ _ heq).2⟩)
      · cases h
    · cases h
      exact .inr (.inr ⟨‹_›, by simpa using ‹¬s.dataReady = true›, rfl⟩)
  · cases h
    exact .inl ⟨by simpa using ‹¬s.rxConfigured = true›, rfl⟩

end Sys2Proof.Machine
end

