-- ==== Sys2Proof/Laws/Transmit.lean ====
section
/-! SUPPORT. What SEND and TXTICK can do, each part said once. -/

namespace Sys2Proof.Machine

/-- Everything a SEND can leave. -/
theorem sendCommand_cases (c : Cfg) (bytes : List Byte) (s : State) :
    (s.txConfigured = false ∧
        sendCommand c bytes s = raiseFault .notConfigured (Instr.opcode (.send bytes)) s) ∨
      (s.txConfigured = true ∧ (s.transmitting = true ∨ c.maxWordlen - 1 ≤ bytes.length) ∧
        sendCommand c bytes s = respond [Instr.opcode (.send bytes)] [0] s) ∨
      (s.txConfigured = true ∧ s.transmitting = false ∧ bytes.length < c.maxWordlen - 1 ∧
        sendCommand c bytes s = respond [Instr.opcode (.send bytes)] [1] (sendAccept c bytes s)) := by
  unfold sendCommand sendRejected
  cases hc : s.txConfigured
  · simp
  · by_cases hl : c.maxWordlen - 1 ≤ bytes.length
    · simp [hl]
    · cases ht : s.transmitting <;> simp [hl]
      omega

/-- Everything a TXTICK can leave. -/
theorem txTickStep_cases (c : Cfg) (s : State) :
    (s.txTimerRun = false ∧ txTickStep c s = s) ∨
      (s.txTimerRun = true ∧ s.txRemaining ≠ 0 ∧ txTickStep c s = countdown s) ∨
      (s.txTimerRun = true ∧ s.txRemaining = 0 ∧ txDone c s = true ∧
        txTickStep c s = txStop s) ∨
      (s.txTimerRun = true ∧ s.txRemaining = 0 ∧ txDone c s = false ∧ s.txNext = .start ∧
        txTickStep c s = loadStart c s) ∨
      (s.txTimerRun = true ∧ s.txRemaining = 0 ∧ txDone c s = false ∧ s.txNext = .data ∧
        txTickStep c s = loadData c s) ∨
      (s.txTimerRun = true ∧ s.txRemaining = 0 ∧ txDone c s = false ∧ s.txNext = .pause ∧
        txTickStep c s = loadPause c s) := by
  unfold txTickStep loadPhase
  cases hr : s.txTimerRun
  · exact .inl ⟨rfl, if_neg Bool.false_ne_true⟩
  · by_cases hz : s.txRemaining = 0
    · rw [if_pos rfl, if_pos hz]
      cases hd : txDone c s
      · cases hn : s.txNext <;> simp [hz]
      · simp [hz]
    · exact .inr (.inl ⟨rfl, hz, by rw [if_pos rfl, if_neg hz]⟩)

/-- TX_STOP on a block without and with a receive path. -/
theorem txStop_cases (s : State) :
    (s.rxConfigured = false ∧ txStop s = stopOutputs s) ∨
      (s.rxConfigured = true ∧ txStop s = rxReset (setEnabled true (stopOutputs s))) := by
  unfold txStop
  cases s.rxConfigured <;> simp

/-- A word an accepted SEND put into the transmit buffer. -/
theorem bufRead_sendAccept (c : Cfg) (bytes : List Byte) (s : State) (k : Nat) :
    bufRead (sendAccept c bytes s).txWords k =
      if h : k < bytes.length then pack9 bytes[k]
      else if k = bytes.length then pack9 (c.crc8 bytes)
      else bufRead s.txWords k := by
  have hw : (sendAccept c bytes s).txWords = bufWriteAll s.txWords 0 (frameWords c bytes) := rfl
  rw [hw, bufRead_bufWriteAll]
  simp only [Nat.zero_le, true_and, Nat.zero_add, frameWords_length, Nat.sub_zero]
  by_cases h : k < bytes.length
  · rw [dif_pos (by omega), dif_pos h]
    simp [frameWords, List.getElem_append_left, h]
  · by_cases he : k = bytes.length
    · subst he
      rw [dif_pos (by omega)]
      simp [frameWords]
    · rw [dif_neg (by omega), dif_neg h, if_neg he]

end Sys2Proof.Machine
end

