-- ==== Sys2Proof/Laws/Exec.lean ====
section
/-! SUPPORT. Everything each operation that answers a next state can have left, said once, for
claims over all operations. -/

namespace Sys2Proof.Machine

/-- What an operation can leave (LOOP and READ by their branches, SEND by its three answers). -/
def Leaves (c : Cfg) (s t : State) : Instr → Prop
  | .edge => t = respond [Instr.opcode .edge] [] (edgeStep c s)
  | .rxTick => t = respond (rxTickTrace s) [] (rxTickStep s)
  | .txTick => t = respond [Instr.opcode .txTick] [] (txTickStep c s)
  | .setupRx =>
    (s.rxConfigured = true ∧ t = raiseFault .setupRepeated (Instr.opcode .setupRx) s) ∨
      (s.rxConfigured = false ∧
        t = respond [Instr.opcode .setupRx] []
          (rxReset (setEnabled true (configureRx s))))
  | .setupTx =>
    (s.txConfigured = true ∧ t = raiseFault .setupRepeated (Instr.opcode .setupTx) s) ∨
      (s.txConfigured = false ∧
        t = respond [Instr.opcode .setupTx] [] (configureTx (stopOutputs s)))
  | .enable =>
    (s.rxConfigured = true ∧
        t = respond [Instr.opcode .enable] [] (rxReset (setEnabled true s))) ∨
      (s.rxConfigured = false ∧ t = raiseFault .notConfigured (Instr.opcode .enable) s)
  | .disable =>
    (s.rxConfigured = true ∧
        t = respond [Instr.opcode .disable] [] (rxReset (setEnabled false s))) ∨
      (s.rxConfigured = false ∧ t = raiseFault .notConfigured (Instr.opcode .disable) s)
  | .loop =>
    (s.rxConfigured = false ∧ t = raiseFault .notConfigured (Instr.opcode .loop) s) ∨
      (s.rxConfigured = true ∧
        ∃ s1 s2, frameBranch c s = .ok s1 ∧ bitBranch c s1 = .ok s2 ∧
          t = respond [Instr.opcode .loop] [] s2)
  | .read =>
    (s.rxConfigured = false ∧ t = raiseFault .notConfigured (Instr.opcode .read) s) ∨
      (s.rxConfigured = true ∧ s.dataReady = true ∧
        t = respond [Instr.opcode .read] (frameResponse s) (clearReady s)) ∨
      (s.rxConfigured = true ∧ s.dataReady = false ∧ t = respond [Instr.opcode .read] [0] s)
  | .send bytes =>
    (s.txConfigured = false ∧ t = raiseFault .notConfigured (Instr.opcode (.send bytes)) s) ∨
      (s.txConfigured = true ∧ (s.transmitting = true ∨ c.maxWordlen - 1 ≤ bytes.length) ∧
        t = respond [Instr.opcode (.send bytes)] [0] s) ∨
      (s.txConfigured = true ∧ s.transmitting = false ∧ bytes.length < c.maxWordlen - 1 ∧
        t = respond [Instr.opcode (.send bytes)] [1] (sendAccept c bytes s))
  | .bitTimeout => t = respond [Instr.opcode .bitTimeout] [] (bitTimeout s)
  | .frameTimeout => t = respond [Instr.opcode .frameTimeout] [] (frameTimeout s)

theorem execOn_leaves (c : Cfg) (i : Instr) (s t : State) (h : execOn c i s = .next t) :
    s.fault = none ∧ Leaves c s t i := by
  have hf := execOn_next_running c i s t h
  refine ⟨hf, ?_⟩
  cases i with
  | edge => rw [execOn_edge c s hf] at h; cases h; rfl
  | rxTick => rw [execOn_rxTick c s hf] at h; cases h; rfl
  | txTick => rw [execOn_txTick c s hf] at h; cases h; rfl
  | bitTimeout => rw [execOn_bitTimeout c s hf] at h; cases h; rfl
  | frameTimeout => rw [execOn_frameTimeout c s hf] at h; cases h; rfl
  | setupRx =>
    rw [execOn_setupRx c s hf] at h
    cases h
    cases hc : s.rxConfigured <;> simp [Leaves, hc]
  | setupTx =>
    rw [execOn_setupTx c s hf] at h
    cases h
    cases hc : s.txConfigured <;> simp [Leaves, hc]
  | enable =>
    rw [execOn_enable c s hf] at h
    cases h
    cases hc : s.rxConfigured <;> simp [Leaves, hc]
  | disable =>
    rw [execOn_disable c s hf] at h
    cases h
    cases hc : s.rxConfigured <;> simp [Leaves, hc]
  | loop =>
    rw [execOn_loop c s hf] at h
    rcases loopCommand_cases c s t h with h1 | ⟨hc, u, hu, ht⟩
    · exact .inl h1
    · obtain ⟨s1, h1, h2⟩ := loopStep_cases c s u hu
      exact .inr ⟨hc, s1, u, h1, h2, ht⟩
  | read =>
    rw [execOn_read c s hf] at h
    exact readCommand_cases c s t h
  | send bytes =>
    rw [execOn_send c bytes s hf] at h
    cases h
    exact sendCommand_cases c bytes s

theorem exec_leaves (i : Instr) (s t : State) (h : exec i s = .next t) :
    s.fault = none ∧ Leaves Config.cfg s t i :=
  execOn_leaves Config.cfg i s t (exec_eq_execOn i s ▸ h)

end Sys2Proof.Machine
end

