-- ==== Sys2Proof/Laws/PerInstr.lean ====
section
/-! SUPPORT. The opcode table read per instruction: the row that reads an operation's opcode is
that operation's row (spec/30_encoding.md R62). -/

namespace Sys2Proof.Laws.OpcodeRow

/-- The table's row for an operation: its whole operation, or the SEND format. -/
def headOf : Instr → Head
  | .send _ => .send
  | i => .plain i

/-- The opcode an operation is encoded with is read by its own row of R62. -/
def Statement (i : Instr) : Prop :=
  (lookupRow i.opcode).map OpRow.head = some (headOf i)

theorem edge : Statement .edge := rfl
theorem rxTick : Statement .rxTick := rfl
theorem txTick : Statement .txTick := rfl
theorem setupRx : Statement .setupRx := rfl
theorem setupTx : Statement .setupTx := rfl
theorem enable : Statement .enable := rfl
theorem disable : Statement .disable := rfl
theorem loop : Statement .loop := rfl
theorem read : Statement .read := rfl
theorem send (bytes : List Byte) : Statement (.send bytes) := by
  change (lookupRow 0x22).map OpRow.head = some .send
  decide
theorem bitTimeout : Statement .bitTimeout := rfl
theorem frameTimeout : Statement .frameTimeout := rfl

end Sys2Proof.Laws.OpcodeRow
end

