-- ==== Sys2Proof/Machine/TraceText.lean ====
section
/-! DEFINITION. The assembler syntax of a trace program: spec/30_encoding.md R73 (one operation a
line, `;` comments, SEND with hexadecimal bytes) with the pseudo-instructions of R74. What R73
leaves open of the text is assumption 18. -/

namespace Sys2Proof.Machine

/-- The value of a digit in base 10 or 16. -/
def digitValue (base : Nat) (ch : Char) : Option Nat :=
  let n := ch.toNat
  let v := if 48 ≤ n ∧ n ≤ 57 then n - 48
    else if 97 ≤ n ∧ n ≤ 102 then n - 87
    else if 65 ≤ n ∧ n ≤ 70 then n - 55
    else 16
  if v < base then some v else none

/-- A numeral of one or more digits. -/
def numeral (base : Nat) : List Char → Option Nat
  | [] => none
  | chars =>
    chars.foldl (fun acc ch => do return base * (← acc) + (← digitValue base ch)) (some 0)

/-- A payload byte: hexadecimal, with or without `0x` before it (R9, R73). -/
def byteLiteral (chars : List Char) : Option Byte :=
  let digits := match chars with
    | '0' :: 'x' :: rest => rest
    | _ => chars
  match numeral 16 digits with
  | some n => if n ≤ 255 then some (BitVec.ofNat 8 n) else none
  | none => none

/-- A repeat count: decimal (R9). -/
def countLiteral (chars : List Char) : Option Nat := numeral 10 chars

/-- The characters between the words of a line. -/
def isSeparator (ch : Char) : Bool := ch == ' ' || ch == ',' || ch == '\t'

/-- The words of a line, the comment left out (R73). -/
def lineWords (line : List Char) : List (List Char) :=
  ((line.takeWhile (· != ';')).splitOnP isSeparator).filter (· != [])

/-- The operations one line stands for; a blank or comment line stands for none. BIT_TIMEOUT and
FRAME_TIMEOUT cannot be written (R73). -/
def assembleWords (c : Cfg) : List (List Char) → Option (List Instr)
  | [] => some []
  | [['E', 'D', 'G', 'E']] => some [.edge]
  | [['R', 'X', 'T', 'I', 'C', 'K']] => some [.rxTick]
  | [['T', 'X', 'T', 'I', 'C', 'K']] => some [.txTick]
  | [['S', 'E', 'T', 'U', 'P', '_', 'R', 'X']] => some [.setupRx]
  | [['S', 'E', 'T', 'U', 'P', '_', 'T', 'X']] => some [.setupTx]
  | [['E', 'N', 'A', 'B', 'L', 'E']] => some [.enable]
  | [['D', 'I', 'S', 'A', 'B', 'L', 'E']] => some [.disable]
  | [['L', 'O', 'O', 'P']] => some [.loop]
  | [['R', 'E', 'A', 'D']] => some [.read]
  | ['S', 'E', 'N', 'D'] :: args =>
    match args.mapM byteLiteral with
    | some bytes => if bytes.length ≤ 255 then some [.send bytes] else none
    | none => none
  | [['P', 'U', 'L', 'S', 'E'], n] =>
    match countLiteral n with
    | some k => if 1 ≤ k then some (pulseOps k) else none
    | none => none
  | [['Q', 'U', 'I', 'E', 'T'], n] => (countLiteral n).map quietOps
  | [['R', 'X', 'B', 'I', 'T'], n] =>
    match countLiteral n with
    | some k => if 1 ≤ k then some (rxbitOps c k) else none
    | none => none
  | [['E', 'N', 'D', 'F', 'R', 'A', 'M', 'E']] => some (endframeOps c)
  | [['T', 'X', 'R', 'U', 'N'], n] => (countLiteral n).map txrunOps
  | _ => none

/-- A trace program's text as the bytes of its operations; none if a line cannot be read (R73). -/
def assemble (c : Cfg) (lines : List (List Char)) : Option (List Byte) :=
  match lines.mapM (fun l => assembleWords c (lineWords l)) with
  | some ops => some (ops.flatten.flatMap encode)
  | none => none

end Sys2Proof.Machine
end

