-- ==== Sys2Proof/Tests/Slice0.lean ====
section
/-! SUPPORT. Tests. Expected results are the spec's own examples and vectors (named at each test, on
configuration EX of R8), or words written out from the encoding tables. The `witness_` theorems show
states and operands that meet the hypotheses of the statements for the provers. -/

namespace Sys2Proof.Tests

open Sys2Proof.Machine

/-! ### Well-formedness -/

/-- The two trace codes are not issuable (R62), and 256 bytes are no payload (R63). -/
theorem test_illFormed_bitTimeout : Instr.wellFormed .bitTimeout = false := by decide
theorem test_illFormed_frameTimeout : Instr.wellFormed .frameTimeout = false := by decide
theorem test_illFormed_longSend :
    Instr.wellFormed (.send (List.replicate 256 0)) = false := by decide +kernel
theorem test_wellFormed_longestSend :
    Instr.wellFormed (.send (List.replicate 255 0)) = true := by decide +kernel

/-! ### Decoding: words written out bit by bit from R61 and R62 -/

theorem test_decode_edge : decode [0b00000001, 0xAA] = .ok (.edge, [0xAA]) := rfl
theorem test_decode_rxTick : decode [0b00000010] = .ok (.rxTick, []) := rfl
theorem test_decode_txTick : decode [0b00000011] = .ok (.txTick, []) := rfl
theorem test_decode_setupRx : decode [0b00010000] = .ok (.setupRx, []) := rfl
theorem test_decode_setupTx : decode [0b00010001] = .ok (.setupTx, []) := rfl
theorem test_decode_enable : decode [0b00010010] = .ok (.enable, []) := rfl
theorem test_decode_disable : decode [0b00010011] = .ok (.disable, []) := rfl
theorem test_decode_loop : decode [0b00100000] = .ok (.loop, []) := rfl
theorem test_decode_read : decode [0b00100001] = .ok (.read, []) := rfl
theorem test_decode_send :
    decode [0b00100010, 0b00000010, 0x12, 0x34, 0x20] = .ok (.send [0x12, 0x34], [0x20]) := rfl
theorem test_decode_bitTimeout : decode [0b10000001] = .ok (.bitTimeout, []) := rfl
theorem test_decode_frameTimeout : decode [0b10000010] = .ok (.frameTimeout, []) := rfl

/-- R71: 0x04, 0x14, 0x23 and 0xFF are unassigned. -/
theorem test_decode_unassigned :
    lookupRow 0x00 = none ∧ lookupRow 0x04 = none ∧ lookupRow 0x14 = none ∧
      lookupRow 0x23 = none ∧ lookupRow 0xFF = none := by decide

/-- No opcode byte is read by two rows (R62). -/
theorem test_rows_disjoint :
    opcodeRows.Pairwise (fun r q => r.pattern &&& q.mask ≠ q.pattern) := by decide

theorem test_encode_send : encode (.send [0x01]) = [0x22, 0x01, 0x01] := by decide

/-- The table's numbering: byte 1 is bits 15..8, byte 2 bits 23..16. -/
theorem test_decodeTableWord_send :
    decodeTableWord 24 0xAB0122 = some (.send [0xAB]) := by decide +kernel
theorem test_decodeTableWord_short : decodeTableWord 8 0x22 = some (.send []) := by decide +kernel

/-! ### One step -/

/-- What a step leaves, where it answers a next state. -/
def after {α : Type} (o : Host.Outcome State Fault Refusal) (f : State → α) : Option α :=
  match o with
  | .next t => some (f t)
  | .fault _ => none
  | .refused _ => none

/-- Each row of the table runs as the first operation after reset; the trace is its opcode (R65). -/
theorem test_step_runs_each_row :
    ∀ w ∈ [0x01, 0x02, 0x03, 0x10, 0x11, 0x12, 0x13, 0x20, 0x21, 0x22, 0x81, 0x82],
      after (step (State.reset.withFetchWord 8 w)) State.trace =
        some [BitVec.ofNat 8 w] := by decide +kernel

/-- A set-up, enabled, idle block. -/
def idle : State :=
  { State.reset with rxConfigured := true, txConfigured := true, rxEnabled := true }

/-- A running block after one operation on EX. -/
def onEx {α : Type} (i : Instr) (s : State) (f : State → α) : Option α := after (execOn Cfg.ex i s) f

/-- R90, Example. -/
theorem test_edge_restarts_timers :
    onEx .edge { idle with edgeCnt := 7, btoRun := true, btoCnt := 2 }
      (fun t => (t.edgeCnt, t.btoCnt, t.ftoCnt, t.btoRun, t.ftoRun)) =
      some (8, 5, 120, true, true) := by decide

/-- R90, corner case: the count wraps to 0. -/
theorem test_edge_wraps :
    onEx .edge { idle with edgeCnt := 0xFFFF } State.edgeCnt = some 0 := by decide

/-- R91, Example, with the trace of R65. -/
theorem test_rxTick_expires_bit :
    onEx .rxTick
      { idle with edgeCnt := 12, btoRun := true, btoCnt := 1, ftoRun := true, ftoCnt := 50 }
      (fun t => (t.btoCnt, t.ftoCnt, t.pulseCnt, t.trace)) =
      some (0, 49, 12, [0x02, 0x81]) := by decide

/-- R91: the frame timer's expiry. -/
theorem test_rxTick_expires_frame :
    onEx .rxTick { idle with ftoRun := true, ftoCnt := 1 }
      (fun t => (t.streamRx, t.ftoRun, t.ftoCnt, t.trace)) =
      some (true, false, 0, [0x02, 0x82]) := by decide

/-- R92, Example. -/
theorem test_bitTimeout_latches :
    onEx .bitTimeout { idle with edgeCnt := 50, btoRun := true }
      (fun t => (t.pulseCnt, t.edgeCnt, t.bitRx, t.btoRun)) = some (50, 0, true, false) := by
  decide

/-- R93, Example. -/
theorem test_frameTimeout_signals :
    onEx .frameTimeout { idle with ftoRun := true } (fun t => (t.streamRx, t.ftoRun)) =
      some (true, false) := by decide

/-- R100, Example. -/
theorem test_loop_start_bit :
    onEx .loop { idle with bitRx := true, pulseCnt := 50 }
      (fun t => (t.threshold, t.startFlag, t.bitRx)) = some (25, false, false) := by decide

/-- R101, Example: the frame close publishes the Words 0x01 and 0x07. -/
theorem test_loop_publishes :
    onEx .loop
      { idle with
        streamRx := true, startFlag := false, wordIdx := 2, rxWords := [(0, 0x01), (1, 0x07)] }
      (fun t => (t.pubLen, t.pubWords, t.pubValid, t.dataReady, t.wordIdx)) =
      some (2, [(0, 0x01), (1, 0x07)], true, true, 0) := by decide

/-- R108, Example. -/
theorem test_read_returns_frame :
    onEx .read
      { idle with
        dataReady := true, pubLen := 2, pubValid := true, pubWords := [(0, 0x01), (1, 0x07)] }
      (fun t => (t.response, t.dataReady)) =
      some (some [0x01, 0x02, 0x01, 0x01, 0x07], false) := by decide

theorem test_read_without_frame :
    onEx .read idle State.response = some (some [0x00]) := by decide

/-- R122, Example. -/
theorem test_send_accepted :
    onEx (.send [0x01]) idle
      (fun t => (bufRead t.txWords 0, bufRead t.txWords 1, t.txBitLen, t.txEnableOut)) =
      some (0x001, 0x007, 18, true) := by decide

/-- R121, Example: length 3 is rejected, length 2 is not. -/
theorem test_send_too_long :
    onEx (.send [1, 2, 3]) idle State.response = some (some [0x00]) ∧
      onEx (.send [1, 2]) idle State.response = some (some [0x01]) := by decide

/-- R126, Example. -/
theorem test_txTick_loads_one :
    onEx .txTick
      { idle with
        transmitting := true, txTimerRun := true, txBitLen := 18, txNext := .data
        txWords := [(0, 0x001)] }
      (fun t => (t.carrierOn, t.txRemaining, t.txCursor, t.txNext)) =
      some (true, 9, 1, .pause) := by decide

/-- R128, Example. -/
theorem test_txTick_stops :
    onEx .txTick
      { idle with
        transmitting := true, txTimerRun := true, txBitLen := 18, txCursor := 18
        txEnableOut := true, rxEnabled := false }
      (fun t => (t.carrierOn, t.txEnableOut, t.transmitting, t.rxEnabled)) =
      some (false, false, false, true) := by decide

/-- R135, Example, and its second call. -/
theorem test_setupRx :
    onEx .setupRx State.reset (fun t => (t.rxConfigured, t.rxEnabled, t.startFlag)) =
        some (true, true, true) ∧
      onEx .setupRx idle (fun t => (t.fault, t.response)) = some (some .setupRepeated, none) := by
  decide

/-- R136, Example, and its second call. -/
theorem test_setupTx :
    onEx .setupTx State.reset (fun t => (t.txConfigured, t.carrierOn, t.txEnableOut)) =
        some (true, false, false) ∧
      onEx .setupTx idle (fun t => (t.fault, t.response)) = some (some .setupRepeated, none) := by
  decide

/-- R137, Example. -/
theorem test_enable_resets :
    onEx .enable { idle with wordIdx := 1, bitIdx := 3, startFlag := false }
      (fun t => (t.wordIdx, t.bitIdx, t.startFlag, t.rxEnabled)) =
      some (0, 0, true, true) := by decide

/-- R138, Example. -/
theorem test_disable_resets :
    onEx .disable { idle with btoRun := true, btoCnt := 3, edgeCnt := 12 }
      (fun t => (t.rxEnabled, t.btoRun, t.edgeCnt)) = some (false, false, 0) := by decide

/-! ### Shared functions -/

/-- R82, Values. -/
theorem test_crc8Ex :
    crc8Ex [] = 0x00 ∧ crc8Ex [0x01] = 0x07 ∧ crc8Ex [0xFF] = 0xF3 ∧
      crc8Ex [0x01, 0x02] = 0x1B ∧ crc8Ex [0x12, 0x34] = 0xF1 ∧ crc8Ex [0xA5] = 0x72 := by decide +kernel

/-- R84, Example, and R83, Example. -/
theorem test_thresholdOf :
    thresholdOf Cfg.ex 50 = 25 ∧ thresholdOf Cfg.ex 51 = 25 ∧ thresholdOf Cfg.ex 40 = 20 ∧
      pulseLengthForBit Cfg.ex true = 9 ∧ pulseLengthForBit Cfg.ex false = 29 := by decide

/-- R85, Example. -/
theorem test_classify :
    classify 10 25 = true ∧ classify 25 25 = false ∧ classify 30 25 = false := by decide

/-- R127, Example: `SEND 01` on EX ends on TXTICK 691. -/
theorem test_transmissionTicks : transmissionTicks Cfg.ex [0x01] = 691 := by decide +kernel

/-- R7: EX is a configuration, and a record with T_BIT = T_FRAME is none. -/
theorem test_accept :
    (Cfg.ex.accept).isSome = true ∧
      ({ Cfg.ex with tBit := 120 }.accept).isSome = false := by decide

/-- R106, Example: MAX_WORDLEN = 4. -/
theorem test_overflowGuard :
    overflowGuard Cfg.ex 4 = 0 ∧ overflowGuard Cfg.ex 3 = 3 := by decide

/-- R73: mnemonics, a comment, SEND with and without bytes. -/
theorem test_assemble :
    assemble Cfg.ex
      ["SEND 12, 34".toList, "SEND".toList, "PULSE 2 ; text".toList, "; text".toList,
        "LOOP".toList] =
      some [0x22, 0x02, 0x12, 0x34, 0x22, 0x00, 0x01, 0x01, 0x20] := by decide

/-- R73: "BIT_TIMEOUT and FRAME_TIMEOUT cannot be written". -/
theorem test_assemble_internal :
    assemble Cfg.ex ["BIT_TIMEOUT".toList] = none ∧
      assemble Cfg.ex ["FRAME_TIMEOUT".toList] = none := by decide

/-- D27: one line period delivers the edge of the sender's carrier to the receiver. -/
theorem test_linePeriod :
    (linePeriod Cfg.ex
        ⟨{ idle with transmitting := true, txTimerRun := true, txBitLen := 18 }, idle⟩).map
      (fun l => (l.sender.carrierOn, l.receiver.edgeCnt)) = some (true, 1) := by decide

/-! ### Witnesses for the statements' hypotheses

States of the hardware's own configuration, whose values are open; clauses whose condition depends
on an open value have their witness on EX. -/

theorem witness_OpcodesReadAsTheTableSays :
    (0x04 : Byte) ∉ ([0x01, 0x02, 0x03, 0x10, 0x11, 0x12, 0x13, 0x20, 0x21, 0x22, 0x81, 0x82]
      : List Byte) := by decide

theorem witness_DecodeOfEncodeIsTheOperation :
    Instr.payloadFits (.send [0x01, 0x02]) = true ∧ Instr.payloadFits .edge = true := by decide

theorem witness_DecodedBytesAreTheEncoding :
    decode ([0x22, 0x00, 0x20]) = .ok (.send [], [0x20]) := rfl

theorem witness_IllegalInputIsRefusedOrFaults :
    (0x82 : Byte) ∉ ([0x01, 0x02, 0x03, 0x10, 0x11, 0x12, 0x13, 0x20, 0x21, 0x22] : List Byte) ∧
      ({ State.reset with input := [0x82] } : State).input = 0x82 :: [] ∧
      ({ State.reset with input := [0x22] } : State).input = [0x22] ∧
      ([0x05] : List Byte).length < (0x02 : Byte).toNat ∧ State.reset.fault = none := by decide

theorem witness_StepRunsTheDecodedOperation :
    State.reset.fault = none ∧ decode [0x20] = .ok (.loop, []) ∧
      Instr.wellFormed .loop = true := ⟨rfl, rfl, rfl⟩

/-- A LOOP before setup, as an operation and as input, and a state whose fault is set. -/
theorem witness_FaultIsRecordedAndSticks :
    (∃ t, exec .loop State.reset = .next t ∧ t.fault ≠ none) ∧
      (∃ t, step { State.reset with input := [0x00] } = .next t ∧ t.fault ≠ none) ∧
      ({ State.reset with fault := some .illegalOp } : State).fault = some .illegalOp :=
  ⟨⟨_, rfl, by decide⟩, ⟨_, rfl, by decide⟩, rfl⟩

/-- Each code is raised, and an operation that raises none. -/
theorem witness_FaultsAreThoseOfTheTable :
    (∃ t, exec .read State.reset = .next t ∧ t.fault = some .notConfigured) ∧
      (∃ t, exec (.send []) State.reset = .next t ∧ t.fault = some .notConfigured) ∧
      (∃ t, exec .setupTx idle = .next t ∧ t.fault = some .setupRepeated) ∧
      (∃ t, exec .setupTx State.reset = .next t ∧ t.fault = none) ∧
      (∃ t, step { State.reset with input := [0x81, 0x20] } = .next t ∧
        t.fault = some .illegalOp) ∧
      (∃ t, step { State.reset with input := [0x02] } = .next t ∧ t.fault = none) :=
  ⟨⟨_, rfl, rfl⟩, ⟨_, rfl, rfl⟩, ⟨_, rfl, rfl⟩, ⟨_, rfl, rfl⟩, ⟨_, rfl, rfl⟩, ⟨_, rfl, rfl⟩⟩

theorem witness_CommandsBeforeSetupRecordTheirFault :
    State.reset.fault = none ∧ faultOf State.reset .enable = some .notConfigured ∧
      idle.fault = none ∧ faultOf idle .setupRx = some .setupRepeated := by decide

/-- Receive enabled and disabled. -/
theorem witness_EdgeCountsAndRestartsBothTimers :
    idle.fault = none ∧ idle.rxEnabled = true ∧ State.reset.fault = none ∧
      State.reset.rxEnabled = false := by decide

/-- Neither timer running, the last tick of the bit timer alone, and the last ticks of both. -/
theorem witness_RxTickCountsDownAndPerformsTimeouts :
    ∀ s ∈ [idle, { idle with btoRun := true, btoCnt := 1, ftoRun := true, ftoCnt := 2 },
        { idle with btoRun := true, btoCnt := 1, ftoRun := true, ftoCnt := 1 }],
      s.fault = none ∧ (s.btoRun = true → 1 ≤ s.btoCnt) ∧ (s.ftoRun = true → 1 ≤ s.ftoCnt) := by
  decide

theorem witness_BitTimeoutLatchesThePulseCount :
    ({ idle with bitRx := true, edgeCnt := 0xFFFF } : State).fault = none := rfl

theorem witness_FrameTimeoutSignalsTheFrameEnd :
    ({ idle with streamRx := true } : State).fault = none := rfl

theorem witness_BitWindowLatchesItsEdges :
    Cfg.ex.WF ∧ idle.fault = none ∧ idle.rxEnabled = true ∧ idle.edgeCnt = 0 ∧ 1 ≤ 1 ∧
      1 ≤ 65535 ∧ 65535 < 65536 := by decide

theorem witness_LoopTakesTheFrameEndFirst :
    (State.reset.fault = none ∧ State.reset.rxConfigured = false) ∧
      (idle.fault = none ∧ idle.rxConfigured = true ∧ idle.streamRx = false ∧
        idle.bitRx = false) ∧
      (let s : State := { idle with streamRx := true, bitRx := true }
       s.fault = none ∧ s.rxConfigured = true ∧ s.streamRx = true ∧ s.bitRx = true ∧
        ∃ u, exec .loop { s with bitRx := false } = .next u) ∧
      ∃ t, exec .loop idle = .next t :=
  ⟨by decide, by decide, ⟨rfl, rfl, rfl, rfl, _, rfl⟩, _, rfl⟩

/-- A frame end with no Word, with one, and with MAX_WORDLEN - 1, the most the invariant allows. -/
theorem witness_FrameCloseChecksAndPublishes :
    ∀ w ∈ [0, 1, Config.cfg.maxWordlen - 1],
      let s : State := { idle with streamRx := true, wordIdx := BitVec.ofNat 8 w }
      s.fault = none ∧ s.rxConfigured = true ∧ s.streamRx = true ∧ s.bitRx = false ∧
        s.wordIdx.toNat ≤ Config.cfg.maxWordlen := by
  have h1 := maxWordlen_ge
  have h2 := maxWordlen_le
  intro w hw
  refine ⟨rfl, rfl, rfl, rfl, ?_⟩
  simp only [List.mem_cons, List.not_mem_nil, or_false] at hw
  simp only [BitVec.toNat_ofNat]
  omega

theorem witness_NoiseIsConsumedAndDiscarded :
    let s : State := { idle with bitRx := true, pulseCnt := 3 }
    s.fault = none ∧ s.rxConfigured = true ∧ s.streamRx = false ∧ s.bitRx = true ∧
      s.pulseCnt.toNat < Cfg.ex.bitMinLen := by decide

/-- The widest count and the narrowest; on EX the counts at both minima (R70). -/
theorem witness_StartBitLoadsTheThreshold :
    (∀ n ∈ [0, 65535],
      let s : State := { idle with bitRx := true, pulseCnt := BitVec.ofNat 16 n }
      s.fault = none ∧ s.rxConfigured = true ∧ s.streamRx = false ∧ s.bitRx = true ∧
        s.startFlag = true) ∧
      pulseClass Cfg.ex true 0 3 = .noise ∧ pulseClass Cfg.ex true 0 4 = .startNoise ∧
      pulseClass Cfg.ex true 0 39 = .startNoise ∧ pulseClass Cfg.ex true 0 40 = .startBit := by
  decide

/-- A payload position and the parity position, in the first Word and in the last. -/
theorem witness_NormalBitIsAssembledOrParityChecked :
    (∀ w ∈ [0, Config.cfg.maxWordlen - 1], ∀ p ∈ [0, 8],
      let s : State :=
        { idle with
          bitRx := true, pulseCnt := 0xFFFF, startFlag := false, bitIdx := BitVec.ofNat 4 p
          wordIdx := BitVec.ofNat 8 w }
      s.fault = none ∧ s.rxConfigured = true ∧ s.streamRx = false ∧ s.bitRx = true ∧
        s.startFlag = false ∧ s.bitIdx.toNat ≤ 8 ∧ s.wordIdx.toNat < Config.cfg.maxWordlen) ∧
      pulseClass Cfg.ex false 25 3 = .noise ∧ pulseClass Cfg.ex false 25 4 = .one ∧
      pulseClass Cfg.ex false 25 24 = .one ∧ pulseClass Cfg.ex false 25 25 = .zero := by
  refine ⟨?_, by decide⟩
  have h1 := maxWordlen_ge
  have h2 := maxWordlen_le
  intro w hw p hp
  refine ⟨rfl, rfl, rfl, rfl, rfl, ?_, ?_⟩ <;>
    simp only [List.mem_cons, List.not_mem_nil, or_false] at hw hp
  · simp only [BitVec.toNat_ofNat]
    omega
  simp only [BitVec.toNat_ofNat]
  omega

theorem witness_PendingBitBecomesAStartCandidate :
    let s : State := { idle with streamRx := true, bitRx := true }
    s.fault = none ∧ s.rxConfigured = true ∧ s.streamRx = true ∧ s.bitRx = true ∧
      s.wordIdx.toNat ≤ Config.cfg.maxWordlen :=
  ⟨rfl, rfl, rfl, rfl, Nat.zero_le _⟩

theorem bitMinLen_le_widest (n : Count) (h : n = 0xFFFF) :
    Config.cfg.bitMinLen ≤ n.toNat := by
  have := Config_wf.2.2.1
  subst h
  exact Nat.le_of_lt_succ this

theorem witness_FullBufferWrapsAndPublishesNothing :
    let s : State :=
      { idle with
        bitRx := true, pulseCnt := 0xFFFF, startFlag := false, bitIdx := 8
        wordIdx := BitVec.ofNat 8 (Config.cfg.maxWordlen - 1) }
    s.fault = none ∧ s.rxConfigured = true ∧ s.streamRx = false ∧ s.bitRx = true ∧
      s.startFlag = false ∧ s.bitIdx = 8 ∧ s.wordIdx.toNat = Config.cfg.maxWordlen - 1 ∧
      Config.cfg.bitMinLen ≤ s.pulseCnt.toNat := by
  have h1 := maxWordlen_ge
  have h2 := maxWordlen_le
  refine ⟨rfl, rfl, rfl, rfl, rfl, rfl, ?_, bitMinLen_le_widest _ rfl⟩
  simp only [BitVec.toNat_ofNat]
  omega

theorem witness_ReadReturnsTheFrameOnce :
    (State.reset.fault = none ∧ State.reset.rxConfigured = false) ∧
      (idle.fault = none ∧ idle.rxConfigured = true ∧ idle.dataReady = false) ∧
      (let s : State := { idle with dataReady := true, pubLen := 1 }
       s.fault = none ∧ s.rxConfigured = true ∧ s.dataReady = true ∧
        s.pubLen.toNat ≤ Config.cfg.maxWordlen) :=
  ⟨by decide, by decide, rfl, rfl, rfl, Nat.le_of_succ_le maxWordlen_ge⟩

/-- A flag set again by ENABLE, and by a LOOP that closes a frame. -/
theorem witness_InvalidFrameStaysInvalid :
    (∃ t, exec .enable { idle with valid := false } = .next t ∧ t.valid = true) ∧
      ∃ t, exec .loop { idle with valid := false, streamRx := true } = .next t ∧
        t.valid = true :=
  ⟨⟨_, rfl, rfl⟩, ⟨_, rfl, rfl⟩⟩

theorem witness_LoopIgnoresAnUnflaggedPulseCount :
    idle.bitRx = false ∧ ∃ t, exec .loop idle = .next t := ⟨rfl, _, rfl⟩

theorem witness_WellSpacedFrameIsReceivedAsSent :
    Cfg.ex.WF ∧ [(0x01 : Byte)].length < Cfg.ex.maxWordlen - 1 ∧ 50 < 65536 ∧
      Cfg.ex.startbitMinLen ≤ 50 ∧ Cfg.ex.bitMinLen ≤ 50 ∧ 1 ≤ 10 ∧ Cfg.ex.bitMinLen ≤ 10 ∧
      10 < 50 * Cfg.ex.bitOneDivDen / Cfg.ex.bitOneDivNum ∧
      50 * Cfg.ex.bitOneDivDen / Cfg.ex.bitOneDivNum ≤ 30 ∧ 30 < 65536 ∧
      idle.fault = none ∧ idle.rxConfigured = true ∧ idle.rxEnabled = true ∧ idle.edgeCnt = 0 ∧
      idle.bitRx = false ∧ idle.streamRx = false ∧ PerFrameReset idle := by
  refine ⟨by decide, by decide, by decide, by decide, by decide, by decide, by decide, by decide,
    by decide, by decide, rfl, rfl, rfl, rfl, rfl, rfl, rfl, rfl, rfl, rfl, rfl⟩

/-- Not set up; busy; the shortest length that is too long; the longest that is not (R121). -/
theorem witness_SendAnswersWhetherAccepted :
    (State.reset.fault = none ∧ State.reset.txConfigured = false) ∧
      (let s : State := { idle with transmitting := true }
       s.fault = none ∧ s.txConfigured = true ∧ s.transmitting = true) ∧
      (idle.fault = none ∧ idle.txConfigured = true ∧ idle.transmitting = false) ∧
      (List.replicate (Config.cfg.maxWordlen - 1) (0 : Byte)).length ≥
        Config.cfg.maxWordlen - 1 ∧
      (List.replicate (Config.cfg.maxWordlen - 2) (0 : Byte)).length <
        Config.cfg.maxWordlen - 1 := by
  have := maxWordlen_ge
  refine ⟨by decide, by decide, by decide, ?_, ?_⟩ <;> simp only [List.length_replicate] <;> omega

theorem witness_RejectedSendChangesNothing :
    let s : State := { idle with transmitting := true }
    s.fault = none ∧ s.txConfigured = true ∧
      (s.transmitting = true ∨ ([] : List Byte).length ≥ Config.cfg.maxWordlen - 1) :=
  ⟨rfl, rfl, .inl rfl⟩

theorem witness_AcceptedSendLoadsTheFrame :
    idle.fault = none ∧ idle.txConfigured = true ∧ idle.transmitting = false ∧
      ([] : List Byte).length < Config.cfg.maxWordlen - 1 := by
  have := maxWordlen_ge
  exact ⟨rfl, rfl, rfl, by simp only [List.length_nil]; omega⟩

/-- The timer stopped, and running with one tick left. -/
theorem witness_TxTickCountsDown :
    (idle.fault = none ∧ idle.txTimerRun = false) ∧
      (let s : State := { idle with txTimerRun := true, txRemaining := 1 }
       s.fault = none ∧ s.txTimerRun = true ∧ s.txRemaining ≠ 0) := by decide

/-- Each symbol, with bits left to send, and the end of the frame. -/
theorem witness_LoadPhaseEmitsTheNextSymbol :
    (∀ n ∈ [TxNext.start, .data, .pause],
      let s : State := { idle with txTimerRun := true, txBitLen := 9, txCursor := 8, txNext := n }
      s.fault = none ∧ s.txTimerRun = true ∧ s.txRemaining = 0 ∧
        ¬(s.txCursor.toNat ≥ s.txBitLen.toNat ∨ s.txCursor.toNat ≥ 9 * Config.cfg.maxWordlen)) ∧
      (let s : State := { idle with txTimerRun := true, txBitLen := 9, txCursor := 9 }
       s.fault = none ∧ s.txTimerRun = true ∧ s.txRemaining = 0 ∧
        s.txCursor.toNat ≥ s.txBitLen.toNat) := by
  refine ⟨?_, by decide⟩
  intro n _
  have := maxWordlen_ge
  refine ⟨rfl, rfl, rfl, ?_⟩
  change ¬((8 : Nat) ≥ 9 ∨ 8 ≥ 9 * Config.cfg.maxWordlen)
  omega

/-- At the end of a frame, with and without a receive path. -/
theorem witness_TransmitStopReenablesReceive :
    ∀ s ∈ [{ idle with txTimerRun := true, txBitLen := 9, txCursor := 9 },
        { State.reset with txTimerRun := true }],
      s.fault = none ∧ s.txTimerRun = true ∧ s.txRemaining = 0 ∧
        s.txCursor.toNat ≥ s.txBitLen.toNat := by decide

theorem witness_TransmissionLastsItsTicks :
    Cfg.ex.WF ∧ idle.txConfigured = true ∧ idle.transmitting = false ∧
      [(0x01 : Byte)].length < Cfg.ex.maxWordlen - 1 ∧
      ∃ u, execOn Cfg.ex (.send [0x01]) idle = .next u :=
  ⟨by decide, rfl, rfl, by decide, _, rfl⟩

/-- The first and a second setup. -/
theorem witness_SetupRxEnablesReceiveOnce :
    (State.reset.fault = none ∧ State.reset.rxConfigured = false) ∧
      idle.fault = none ∧ idle.rxConfigured = true := by decide

theorem witness_SetupTxStopsTheTimerOnce :
    (State.reset.fault = none ∧ State.reset.txConfigured = false) ∧
      idle.fault = none ∧ idle.txConfigured = true := by decide

/-- Before setup, and with receive already on. -/
theorem witness_EnableResetsReceive :
    (State.reset.fault = none ∧ State.reset.rxConfigured = false) ∧
      idle.fault = none ∧ idle.rxConfigured = true ∧ idle.rxEnabled = true := by decide

theorem witness_DisableResetsReceive :
    (State.reset.fault = none ∧ State.reset.rxConfigured = false) ∧
      idle.fault = none ∧ idle.rxConfigured = true := by decide

/-- An empty frame is accepted by an idle block (R121). -/
theorem idle_send_accepted :
    exec (.send []) idle =
      .next (respond [Instr.opcode (.send [])] [1] (sendAccept Config.cfg [] idle)) := by
  have := maxWordlen_ge
  rw [exec_eq_execOn, execOn_send _ _ _ rfl]
  rcases sendCommand_cases Config.cfg [] idle with h | h | h
  · exact absurd h.1 (by decide)
  · rcases h.2.1 with h | h
    · exact absurd h (by decide)
    · simp only [List.length_nil] at h; omega
  · rw [h.2.2.2]

/-- ENABLE, DISABLE, the first SETUP_RX, an accepted SEND and the transmit stop. -/
theorem witness_ReceiveResetLeavesTheUnreadFrame :
    (∃ t, exec .enable idle = .next t ∧ t.fault = none) ∧
      (∃ t, exec .disable idle = .next t ∧ t.fault = none) ∧
      (∃ t, exec .setupRx State.reset = .next t ∧ t.fault = none) ∧
      (∃ t, exec (.send []) idle = .next t ∧ t.fault = none ∧
        ResetsReceive (.send []) idle t) ∧
      (let s : State := { idle with txTimerRun := true }
       ∃ t, exec .txTick s = .next t ∧ t.fault = none ∧ ResetsReceive .txTick s t) :=
  ⟨⟨_, rfl, rfl⟩, ⟨_, rfl, rfl⟩, ⟨_, rfl, rfl⟩,
    ⟨_, idle_send_accepted, rfl, .inr (.inr (.inr (.inl ⟨⟨_, rfl⟩, rfl⟩)))⟩,
    ⟨_, rfl, rfl, .inr (.inr (.inr (.inr ⟨rfl, rfl, rfl, rfl⟩)))⟩⟩

/-- EX; the largest count, and one below the divisor 2/1. -/
theorem witness_ThresholdIsTheFlooredQuotient :
    Cfg.ex.WF ∧ (1 : Count).toNat * Cfg.ex.bitOneDivDen < Cfg.ex.bitOneDivNum ∧
      thresholdOf Cfg.ex 0xFFFF = 0x7FFF := by decide

theorem witness_ShorterBurstsEncodeOne : Cfg.ex.WF := by decide

/-- Each class of EX at the ends of its range. -/
theorem witness_PulseCountClasses :
    (3 < Cfg.ex.bitMinLen) ∧ (Cfg.ex.bitMinLen ≤ 4 ∧ 39 < Cfg.ex.startbitMinLen) ∧
      max Cfg.ex.bitMinLen Cfg.ex.startbitMinLen ≤ 40 ∧ (24 : Nat) < (25 : Count).toNat ∧
      (25 : Count).toNat ≤ 25 := by decide

/-- A set-up, idle block meets the invariant. -/
theorem idle_inv (input : List Byte) : Inv Config.cfg { idle with input := input } := by
  constructor <;> simp [idle, State.reset]

theorem witness_StepKeepsTheInvariant :
    let s : State := { idle with input := [0x02] }
    Inv Config.cfg s ∧ ∃ t, step s = .next t := ⟨idle_inv _, _, rfl⟩

/-- A step with the timers stopped, and timers running in step. -/
theorem witness_TimersNeverExpireTogether :
    (let s : State := { State.reset with input := [0x02] }
     TimersInStep Config.cfg s ∧ ∃ t, step s = .next t) ∧
      TimersInStep Config.cfg
        { idle with
          btoRun := true, btoCnt := Config.cfg.tBit, ftoRun := true
          ftoCnt := Config.cfg.tFrame } := by
  refine ⟨⟨fun h => absurd h (by decide), _, rfl⟩, fun _ => ⟨rfl, Config_wf.2.2.2.2.2.2.2.1, ?_⟩⟩
  exact Nat.add_comm _ _

theorem witness_StepKeepsTheBuffers :
    let s : State := { State.reset with input := [0x02] }
    Memory.wf s ∧ Memory.inRange Config.cfg s ∧ ∃ t, step s = .next t := by
  refine ⟨⟨?_, ?_, ?_⟩, ⟨?_, ?_, ?_⟩, _, rfl⟩ <;> simp [State.reset, bufWf]

/-- A state of the invariant, an index outside, an accepted SEND, and the burst of the last bit of a
one-Word frame. -/
theorem witness_NoStepLeavesTheBuffers :
    Inv Config.cfg { idle with input := [0x20] } ∧
      (∃ t, exec .edge idle = .next t ∧ Config.cfg.maxWordlen ≤ Config.cfg.maxWordlen) ∧
      (∃ t, exec (.send []) idle = .next t ∧ t.response = some [0x01]) ∧
      (let s : State := { idle with txTimerRun := true, txBitLen := 9, txCursor := 8, txNext := .data }
       ∃ t, exec .txTick s = .next t ∧ t.txCursor ≠ s.txCursor) := by
  refine ⟨idle_inv _, ⟨_, rfl, le_refl _⟩, ⟨_, idle_send_accepted, rfl⟩, ?_⟩
  have hm := maxWordlen_ge
  refine ⟨_, (exec_eq_execOn _ _).trans (execOn_txTick Config.cfg _ rfl), ?_⟩
  rcases txTickStep_cases Config.cfg
      { idle with txTimerRun := true, txBitLen := 9, txCursor := 8, txNext := .data } with
    h | h | h | h | h | h
  · exact absurd h.1 (by decide)
  · exact absurd rfl h.2.1
  · have h9 : decide ((8 : Nat) ≥ 9) = true ∨ decide (8 ≥ 9 * Config.cfg.maxWordlen) = true :=
      Bool.or_eq_true_iff.1 h.2.2.1
    simp only [decide_eq_true_eq] at h9
    omega
  · exact absurd h.2.2.2.1 (by decide)
  · rw [h.2.2.2.2]
    decide
  · exact absurd h.2.2.2.1 (by decide)

theorem witness_InterlockHoldsUnlessReceiveIsEnabled :
    (Interlock State.reset ∧ ∃ t, exec .txTick State.reset = .next t) ∧
      (let s : State := { idle with rxEnabled := false, transmitting := true }
       Interlock s ∧ s.transmitting = true ∧ ∃ t, exec .edge s = .next t) :=
  ⟨⟨fun h => absurd h (by decide), _, rfl⟩, fun _ => rfl, rfl, _, rfl⟩

theorem witness_SetupFlagsAreSetOnlyBySetup :
    (∃ t, exec .setupRx State.reset = .next t) ∧ ∃ t, exec .rxTick State.reset = .next t :=
  ⟨⟨_, rfl⟩, ⟨_, rfl⟩⟩

/-- A block that receives: the widest count pending and, in Word 0, a byte from an earlier frame. -/
def receiving : State :=
  { idle with bitRx := true, pulseCnt := 0xFFFF, rxWords := [(0, 0xFF)] }

/-- A start bit loads the threshold: `startFlag` and `bitRx` are cleared. -/
theorem receiving_start :
    ∃ t, exec .loop receiving = .next t ∧ t.startFlag = false ∧ t.bitRx = false := by
  have h1 := bitMinLen_le_widest receiving.pulseCnt rfl
  have h2 : Config.cfg.startbitMinLen ≤ receiving.pulseCnt.toNat :=
    Nat.le_of_lt_succ Config_wf.2.1
  rcases bitCases_cases Config.cfg receiving.pulseCnt (clearBit receiving) with h | h | h | h
  · omega
  · omega
  · exact ⟨_, (exec_eq_execOn _ _).trans (execOn_loop_of _ _ _ rfl rfl
      ((loopStep_bit _ _ rfl rfl).trans h.2.2.2)), rfl, rfl⟩
  · exact absurd h.2.1 (by decide)

/-- A 0 at position 0 replaces the byte in the receive buffer. -/
theorem receiving_bit :
    let s : State := { receiving with startFlag := false }
    ∃ t, exec .loop s = .next t ∧ ¬samePart s t .rxBuffer := by
  intro s
  have h1 := bitMinLen_le_widest s.pulseCnt rfl
  have hm := maxWordlen_ge
  rcases bitCases_cases Config.cfg s.pulseCnt (clearBit s) with h | h | h | h
  · omega
  · exact absurd h.2.1 (by decide)
  · exact absurd h.2.1 (by decide)
  · have h3 := h.2.2.trans
      (needWords_le _ _ _ (show (0 : WordIndex).toNat + 1 ≤ Config.cfg.maxWordlen from
        Nat.le_of_succ_le hm))
    refine ⟨_, (exec_eq_execOn _ _).trans (execOn_loop_of _ _ _ rfl rfl
      ((loopStep_bit _ _ rfl rfl).trans h3)), fun hs => ?_⟩
    exact absurd (hs 0) (by decide)

/-- A frame end with one Word publishes it. -/
theorem receiving_frame :
    let s : State := { idle with streamRx := true, wordIdx := 1, rxWords := [(0, 0xFF)] }
    ∃ t, exec .loop s = .next t ∧ ¬samePart s t .published ∧ t.dataReady = true := by
  intro s
  have hm := maxWordlen_ge
  refine ⟨_, (exec_eq_execOn _ _).trans (execOn_loop_of _ _ _ rfl rfl
    (loopStep_frame _ _ rfl rfl (show 1 ≤ Config.cfg.maxWordlen by omega))), fun hs => ?_, rfl⟩
  exact absurd hs.2.1 (by decide)

/-- Each clause's writer at work. -/
theorem witness_EachElementHasItsWriters :
    (∃ t, exec .edge idle = .next t ∧ t.edgeCnt ≠ idle.edgeCnt) ∧
      (∃ t, exec .enable { idle with edgeCnt := 5, bitRx := true, streamRx := true } = .next t ∧
        t.edgeCnt = 0 ∧ t.bitRx = false ∧ t.streamRx = false) ∧
      (∃ t, exec .bitTimeout { idle with edgeCnt := 5 } = .next t ∧ t.pulseCnt ≠ 0 ∧
        t.bitRx = true) ∧
      (∃ t, exec .frameTimeout idle = .next t ∧ t.streamRx = true) ∧
      (∃ t, exec .loop receiving = .next t ∧ t.startFlag = false ∧ t.bitRx = false) ∧
      (let s : State := { receiving with startFlag := false }
       ∃ t, exec .loop s = .next t ∧ ¬samePart s t .rxBuffer) ∧
      (let s : State := { idle with streamRx := true, wordIdx := 1, rxWords := [(0, 0xFF)] }
       ∃ t, exec .loop s = .next t ∧ ¬samePart s t .published ∧ t.dataReady = true) ∧
      (∃ t, exec .read { idle with dataReady := true } = .next t ∧ t.dataReady = false) ∧
      (∃ t, exec (.send []) idle = .next t ∧ ¬samePart idle t .txFrame ∧
        t.transmitting = true) ∧
      (let s : State := { idle with txTimerRun := true, txRemaining := 1 }
       ∃ t, exec .txTick s = .next t ∧ ¬samePart s t .scheduler) ∧
      (∃ t, exec .txTick { idle with transmitting := true, txTimerRun := true } = .next t ∧
        t.transmitting = false) := by
  refine ⟨⟨_, rfl, by decide⟩, ⟨_, rfl, rfl, rfl, rfl⟩, ⟨_, rfl, by decide, rfl⟩, ⟨_, rfl, rfl⟩,
    receiving_start, receiving_bit, receiving_frame,
    ⟨_, (exec_eq_execOn _ _).trans (execOn_read _ _ rfl), rfl⟩,
    ⟨_, idle_send_accepted, fun hs => absurd hs.2 (by decide), rfl⟩,
    ⟨_, rfl, fun hs => absurd hs.2.1 (by decide)⟩, ⟨_, rfl, rfl⟩⟩

theorem witness_EdgeCommutesWithLoop :
    idle.rxConfigured = true ∧ (∃ a, exec .edge idle = .next a) ∧
      ∃ b, exec .loop idle = .next b := ⟨rfl, ⟨_, rfl⟩, ⟨_, rfl⟩⟩

end Sys2Proof.Tests
end

section
/-! The statements about the state's elements (spec/10_state.md), settled. -/

namespace Sys2Proof.Machine

/-- Settles O1: `State.reset` is a literal record, so each conjunct is a closed fact about one of
its fields (R44). -/
theorem resetPutsEveryElementAtItsValue : Obligations.ResetPutsEveryElementAtItsValue := by
  unfold Obligations.ResetPutsEveryElementAtItsValue
  decide

end Sys2Proof.Machine
end

section
/-! The statements about the encoding of operations (spec/30_encoding.md), settled. -/

namespace Sys2Proof

/-- The rows of R62 whose column "issuable as input" says no. -/
theorem Instr.issuable_eq_false_iff (i : Instr) :
    i.issuable = false ↔ i = .bitTimeout ∨ i = .frameTimeout := by
  cases i <;> simp [Instr.issuable]

/-- Settles O3, row by row: a one-byte operation is read from its own opcode, SEND with the payload
its length byte announces, and a byte outside `knownOpcodes` has no row (R62). -/
theorem opcodesReadAsTheTableSays : Obligations.OpcodesReadAsTheTableSays := by
  unfold Obligations.OpcodesReadAsTheTableSays
  refine ⟨fun rest => ?_, Instr.issuable_eq_false_iff, decode_unknown⟩
  have hplain (i : Instr) (h : ∀ bytes, i ≠ .send bytes) := decode_plain i rest h
  have hsend : decode (0x22 :: 0x02 :: 0x12 :: 0x34 :: rest) = .ok (.send [0x12, 0x34], rest) :=
    (decode_send _).trans (decodeSend_payload [0x12, 0x34] rest (by decide))
  exact ⟨hplain .edge nofun, hplain .rxTick nofun, hplain .txTick nofun, hplain .setupRx nofun,
    hplain .setupTx nofun, hplain .enable nofun, hplain .disable nofun, hplain .loop nofun,
    hplain .read nofun, hsend, hplain .bitTimeout nofun, hplain .frameTimeout nofun⟩

end Sys2Proof
end

section
/-! The statements about the bit codec (spec/40_codec.md), settled. -/

namespace Sys2Proof.Machine

/-! ### Parity and the transmit Word -/

theorem parityOdd_iff (b : Byte) : parityOdd b = true ↔ popcount b % 2 = 0 := by
  rw [parityOdd, beq_iff_eq]

/-- The transmit Word laid out by position: the parity bit in front of the byte (R66, R86). -/
theorem pack9_eq_append (b : Byte) : pack9 b = BitVec.ofBool (parityOdd b) ++ b := by
  ext k hk
  rw [BitVec.getElem_append, pack9]
  split
  case isTrue h => simp [h]
  case isFalse h =>
    obtain rfl : k = 8 := by omega
    simp

theorem pack9_toNat (b : Byte) :
    (pack9 b).toNat = b.toNat + if parityOdd b = true then 256 else 0 := by
  rw [pack9_eq_append, BitVec.toNat_append, ← Nat.shiftLeft_add_eq_or_of_lt b.isLt, Nat.add_comm]
  cases parityOdd b <;> rfl

/-- Settles O39: the iff is the parity's definition read as a proposition, and R80's corner cases
are closed facts. -/
theorem parityOddCompletesToOdd : Obligations.ParityOddCompletesToOdd := by
  unfold Obligations.ParityOddCompletesToOdd
  exact ⟨parityOdd_iff, by decide⟩

/-- Settles O40: the two halves of the Word do not overlap, so its value is their sum. -/
theorem packedWordHoldsByteAndParity : Obligations.PackedWordHoldsByteAndParity := by
  unfold Obligations.PackedWordHoldsByteAndParity
  exact ⟨pack9_toNat, by decide⟩

/-! ### The threshold and the classifier -/

theorem classify_iff (cnt threshold : Count) :
    classify cnt threshold = true ↔ cnt.toNat < threshold.toNat := by
  rw [classify, decide_eq_true_iff]

/-- No count lies below a threshold of 0, so none classifies as 1 (R84). -/
theorem classify_zero (cnt : Count) : classify cnt 0 = false := by
  rw [← Bool.not_eq_true, classify_iff]
  exact Nat.not_lt_zero _

/-- The divisor NUM/DEN of a legal configuration is at least 1 (R6). -/
theorem thresholdOf_le (c : Cfg) (h : c.WF) (cnt : Count) :
    (thresholdOf c cnt).toNat ≤ cnt.toNat := by
  have ⟨_, _, _, ⟨_, hdiv⟩, _⟩ := h
  rw [thresholdOf_toNat c h]
  calc cnt.toNat * c.bitOneDivDen / c.bitOneDivNum
      ≤ cnt.toNat * c.bitOneDivNum / c.bitOneDivNum :=
        Nat.div_le_div_right (Nat.mul_le_mul_left _ hdiv)
    _ ≤ cnt.toNat := Nat.div_le_of_le_mul (Nat.mul_comm _ _).le

/-- The zero corner case of R84: a count below the divisor. -/
theorem thresholdOf_eq_zero (c : Cfg) (cnt : Count)
    (hlt : cnt.toNat * c.bitOneDivDen < c.bitOneDivNum) : thresholdOf c cnt = 0 := by
  rw [thresholdOf, Nat.div_eq_of_lt hlt]
  rfl

/-- Settles O42: the quotient fits a count because the divisor is at least 1, and below the divisor
it is 0, a threshold that no count is below. -/
theorem thresholdIsTheFlooredQuotient : Obligations.ThresholdIsTheFlooredQuotient := by
  unfold Obligations.ThresholdIsTheFlooredQuotient
  intro c cnt hwf
  refine ⟨thresholdOf_toNat c hwf cnt, thresholdOf_le c hwf cnt, fun hlt => ?_⟩
  have hzero := thresholdOf_eq_zero c cnt hlt
  exact ⟨hzero, fun x => by rw [hzero, classify_zero]⟩

/-! ### The burst lengths -/

/-- The burst of a 1 is the shorter, by the constraint of R6 on the two lengths. -/
theorem pulseLengthForBit_lt (c : Cfg) (h : c.WF) :
    (pulseLengthForBit c true).toNat < (pulseLengthForBit c false).toNat := by
  have ⟨_, _, _, _, ⟨hlt, _⟩, _⟩ := h
  simpa [pulseLengthForBit_toNat c h] using hlt

/-- Settles O43: both lengths fit a tick count and keep R6's order, and the classifier compares
unsigned values. -/
theorem shorterBurstsEncodeOne : Obligations.ShorterBurstsEncodeOne := by
  unfold Obligations.ShorterBurstsEncodeOne
  refine ⟨fun c hwf => ?_, classify_iff⟩
  exact ⟨pulseLengthForBit_toNat c hwf true, pulseLengthForBit_toNat c hwf false,
    pulseLengthForBit_lt c hwf⟩

end Sys2Proof.Machine
end

section
/-! The frame of an operation (`UnchangedBut`): how frames compose. -/

namespace Sys2Proof.Machine

theorem samePart_refl (s : State) (p : Part) : samePart s s p := by
  cases p <;> simp [samePart, sameWords]

theorem samePart_trans {s t u : State} {p : Part} (hst : samePart s t p) (htu : samePart t u p) :
    samePart s u p := by
  cases p <;> simp_all [samePart, sameWords]

theorem unchangedBut_refl (parts : List Part) (s : State) : UnchangedBut parts s s :=
  fun p _ => samePart_refl s p

theorem UnchangedBut.mono {parts parts' : List Part} {s t : State}
    (h : UnchangedBut parts s t) (hsub : parts ⊆ parts') : UnchangedBut parts' s t :=
  fun p hp => h p (fun hmem => hp (hsub hmem))

theorem UnchangedBut.trans {parts : List Part} {s t u : State}
    (hst : UnchangedBut parts s t) (htu : UnchangedBut parts t u) : UnchangedBut parts s u :=
  fun p hp => samePart_trans (hst p hp) (htu p hp)

/-- A step's outputs are no part of the block's state. -/
theorem samePart_respond (ops bytes : List Byte) (s : State) (p : Part) :
    samePart s (respond ops bytes s) p := by
  cases p <;> simp [samePart, sameWords]

theorem UnchangedBut.respond {parts : List Part} {s t : State} (h : UnchangedBut parts s t)
    (ops bytes : List Byte) : UnchangedBut parts s (respond ops bytes t) :=
  h.trans (fun p _ => samePart_respond ops bytes t p)

end Sys2Proof.Machine
end

section
/-! The statements about receive capture (spec/41_rx_capture.md), settled. -/

namespace Sys2Proof.Machine

/-! ### The edge handler (R90) -/

theorem edgeStep_of_disabled (c : Cfg) (s : State) (h : s.rxEnabled = false) :
    edgeStep c s = s := by
  simp [edgeStep, h]

theorem edgeStep_of_enabled (c : Cfg) (s : State) (h : s.rxEnabled = true) :
    (edgeStep c s).edgeCnt = s.edgeCnt + 1 ∧
      (edgeStep c s).btoCnt = c.tBit ∧ (edgeStep c s).btoRun = true ∧
      (edgeStep c s).ftoCnt = c.tFrame ∧ (edgeStep c s).ftoRun = true := by
  simp [edgeStep, h]

theorem edgeStep_frame (c : Cfg) (s : State) : UnchangedBut [.capture] s (edgeStep c s) := by
  cases henabled : s.rxEnabled with
  | false =>
    rw [edgeStep_of_disabled c s henabled]
    exact unchangedBut_refl _ s
  | true =>
    intro p hp
    cases p
    case capture => simp at hp
    all_goals simp [samePart, sameWords, edgeStep, henabled]

/-- Settles O11, by whether receive is enabled: the 16-bit counter wraps, and a detached edge
interrupt leaves the state as it is. -/
theorem edgeCountsAndRestartsBothTimers : Obligations.EdgeCountsAndRestartsBothTimers := by
  unfold Obligations.EdgeCountsAndRestartsBothTimers
  intro s hfault
  refine ⟨_, (exec_eq_execOn _ _).trans (execOn_edge _ _ hfault), ⟨rfl, rfl⟩,
    (edgeStep_frame _ s).respond _ _, ?_⟩
  split
  case isTrue henabled =>
    obtain ⟨hcnt, htimers⟩ := edgeStep_of_enabled Config.cfg s henabled
    refine ⟨?_, htimers⟩
    rw [respond_edgeCnt, hcnt]
    exact BitVec.toNat_add _ _
  case isFalse hdisabled =>
    rw [edgeStep_of_disabled _ s (Bool.eq_false_of_not_eq_true hdisabled)]
    exact samePart_respond _ _ s .capture

/-! ### The timeout handlers (R92, R93) -/

theorem bitTimeout_frame (s : State) :
    UnchangedBut [.capture, .latch, .bitFlag] s (bitTimeout s) := by
  intro p hp
  cases p
  case capture | latch | bitFlag => simp at hp
  all_goals simp [samePart, sameWords]

theorem frameTimeout_frame (s : State) :
    UnchangedBut [.capture, .streamFlag] s (frameTimeout s) := by
  intro p hp
  cases p
  case capture | streamFlag => simp at hp
  all_goals simp [samePart, sameWords]

/-- Settles O13: the handler's writes, read off its state field by field. -/
theorem bitTimeoutLatchesThePulseCount : Obligations.BitTimeoutLatchesThePulseCount := by
  unfold Obligations.BitTimeoutLatchesThePulseCount
  intro s hfault
  exact ⟨_, (exec_eq_execOn _ _).trans (execOn_bitTimeout Config.cfg _ hfault),
    (bitTimeout_frame s).respond _ _, rfl, rfl, rfl, rfl, rfl, rfl, rfl⟩

/-- Settles O14: the handler's writes, read off its state field by field. -/
theorem frameTimeoutSignalsTheFrameEnd : Obligations.FrameTimeoutSignalsTheFrameEnd := by
  unfold Obligations.FrameTimeoutSignalsTheFrameEnd
  intro s hfault
  exact ⟨_, (exec_eq_execOn _ _).trans (execOn_frameTimeout Config.cfg _ hfault),
    (frameTimeout_frame s).respond _ _, rfl, rfl, rfl, rfl, rfl, rfl⟩

/-! ### The receive tick (R91) -/

/-- A timer that has a tick left while it runs expires exactly on its last tick. -/
theorem timerFires_iff (run : Bool) (cnt : Nat) (h : run = true → 1 ≤ cnt) :
    timerFires run cnt = true ↔ run = true ∧ cnt = 1 := by
  cases run with
  | false => simp [timerFires]
  | true =>
    have hpos : 1 ≤ cnt := h rfl
    simp only [timerFires, timerCount, Bool.true_and, if_true, beq_iff_eq, true_and]
    omega

theorem countTimers_frame (s : State) : UnchangedBut [.capture] s (countTimers s) := by
  intro p hp
  cases p
  case capture => simp at hp
  all_goals simp [samePart, sameWords]

/-- The parts an RXTICK may write: those of the two handlers. -/
def rxTickParts : List Part := [.capture, .latch, .bitFlag, .streamFlag]

theorem rxTickStep_frame (s : State) : UnchangedBut rxTickParts s (rxTickStep s) := by
  have hcount : UnchangedBut rxTickParts s (countTimers s) :=
    (countTimers_frame s).mono (by decide)
  have hbit (u : State) : UnchangedBut rxTickParts u (bitTimeout u) :=
    (bitTimeout_frame u).mono (by decide)
  have hframe (u : State) : UnchangedBut rxTickParts u (frameTimeout u) :=
    (frameTimeout_frame u).mono (by decide)
  unfold rxTickStep
  split <;> split
  · exact (hcount.trans (hbit _)).trans (hframe _)
  · exact hcount.trans (hbit _)
  · exact hcount.trans (hframe _)
  · exact hcount

/-- Neither handler touches the counts: both timers count down as `countTimers` says. -/
theorem rxTickStep_counts (s : State) :
    (rxTickStep s).btoCnt = timerCount s.btoRun s.btoCnt ∧
      (rxTickStep s).ftoCnt = timerCount s.ftoRun s.ftoCnt := by
  unfold rxTickStep
  split <;> split <;> exact ⟨rfl, rfl⟩

/-- What BIT_TIMEOUT writes is written exactly when the bit timer expires. -/
theorem rxTickStep_bitWindow (s : State) :
    if timerFires s.btoRun s.btoCnt = true then
      (rxTickStep s).pulseCnt = s.edgeCnt ∧ (rxTickStep s).edgeCnt = 0 ∧
        (rxTickStep s).bitRx = true ∧ (rxTickStep s).btoRun = false
    else
      (rxTickStep s).pulseCnt = s.pulseCnt ∧ (rxTickStep s).edgeCnt = s.edgeCnt ∧
        (rxTickStep s).bitRx = s.bitRx ∧ (rxTickStep s).btoRun = s.btoRun := by
  unfold rxTickStep
  split <;> split <;> exact ⟨rfl, rfl, rfl, rfl⟩

/-- What FRAME_TIMEOUT writes is written exactly when the frame timer expires. -/
theorem rxTickStep_frameEnd (s : State) :
    if timerFires s.ftoRun s.ftoCnt = true then
      (rxTickStep s).streamRx = true ∧ (rxTickStep s).ftoRun = false
    else (rxTickStep s).streamRx = s.streamRx ∧ (rxTickStep s).ftoRun = s.ftoRun := by
  unfold rxTickStep
  split <;> split <;> exact ⟨rfl, rfl⟩

/-- Settles O12: a timer's handler runs exactly on its last tick, where the two timers have a tick
left while they run; what each part of RXTICK leaves is then said by the lemmas above. -/
theorem rxTickCountsDownAndPerformsTimeouts :
    Obligations.RxTickCountsDownAndPerformsTimeouts := by
  unfold Obligations.RxTickCountsDownAndPerformsTimeouts
  intro s hfault hbto hfto
  obtain ⟨hbtoCnt, hftoCnt⟩ := rxTickStep_counts s
  have hbit := rxTickStep_bitWindow s
  have hframe := rxTickStep_frameEnd s
  have htrace : rxTickTrace s = [0x02] ++
      (if timerFires s.btoRun s.btoCnt = true then [0x81] else []) ++
      (if timerFires s.ftoRun s.ftoCnt = true then [0x82] else []) := rfl
  simp only [timerFires_iff _ _ hbto, timerFires_iff _ _ hfto] at hbit hframe htrace
  exact ⟨_, (exec_eq_execOn _ _).trans (execOn_rxTick Config.cfg _ hfault), ⟨rfl, htrace⟩,
    (rxTickStep_frame s).respond _ _, hbtoCnt, hftoCnt, hbit, hframe⟩

end Sys2Proof.Machine
end

section
/-! The frames of the operations that LOOP and READ are made of: the parts each may write. -/

namespace Sys2Proof.Machine

theorem raiseFault_frame (code : FaultCode) (op : Byte) (s : State) :
    UnchangedBut [.faultReg] s (raiseFault code op s) := by
  intro p hp
  cases p
  case faultReg => simp at hp
  all_goals simp [samePart, sameWords]

theorem clearBit_frame (s : State) : UnchangedBut [.bitFlag] s (clearBit s) := by
  intro p hp
  cases p
  case bitFlag => simp at hp
  all_goals simp [samePart, sameWords]

theorem clearStream_frame (s : State) : UnchangedBut [.streamFlag] s (clearStream s) := by
  intro p hp
  cases p
  case streamFlag => simp at hp
  all_goals simp [samePart, sameWords]

theorem clearReady_frame (s : State) : UnchangedBut [.ready] s (clearReady s) := by
  intro p hp
  cases p
  case ready => simp at hp
  all_goals simp [samePart, sameWords]

/-- Whatever an operation writes of R26 to R30, it writes per-frame state alone. -/
theorem unchangedBut_perFrame (s : State) (threshold : Count) (startFlag : Bool)
    (bitIdx : BitIndex) (wordIdx : WordIndex) (valid : Bool) :
    UnchangedBut [.perFrame] s
      { s with
        threshold := threshold, startFlag := startFlag, bitIdx := bitIdx, wordIdx := wordIdx
        valid := valid } := by
  intro p hp
  cases p
  case perFrame => simp at hp
  all_goals simp [samePart, sameWords]

theorem frameReset_frame (s : State) : UnchangedBut [.perFrame] s (frameReset s) :=
  unchangedBut_perFrame s _ _ _ _ _

/-- The CRC check of R101 writes the validity flag, which is per-frame state. -/
theorem publish_frame (c : Cfg) (s : State) :
    UnchangedBut [.perFrame, .published, .ready] s (publish c s) := by
  intro p hp
  cases p
  case perFrame | published | ready => simp at hp
  all_goals simp [samePart, sameWords]

theorem loadThreshold_frame (c : Cfg) (cnt : Count) (s : State) :
    UnchangedBut [.perFrame] s (loadThreshold c cnt s) :=
  unchangedBut_perFrame s _ _ _ _ _

theorem parityBit_frame (c : Cfg) (b : Bool) (s : State) :
    UnchangedBut [.perFrame] s (parityBit c b s) :=
  unchangedBut_perFrame s _ _ _ _ _

theorem dataBit_frame (c : Cfg) (b : Bool) (s : State) :
    UnchangedBut [.perFrame, .rxBuffer] s (dataBit c b s) := by
  intro p hp
  cases p
  case perFrame | rxBuffer => simp at hp
  all_goals simp [samePart, sameWords]

end Sys2Proof.Machine
end

section
/-! The statements about receive decode (spec/42_rx_decode.md), settled. -/

namespace Sys2Proof.Machine

/-! ### The frame close (R101) -/

theorem closed_of_empty (c : Cfg) (s : State) (h : s.wordIdx = 0) :
    closed c s = frameReset (clearStream s) := by
  rw [closed, if_pos h]

theorem closed_of_words (c : Cfg) (s : State) (h : s.wordIdx ≠ 0) :
    closed c s = frameReset (publish c (clearStream s)) := by
  rw [closed, if_neg h]

theorem closed_perFrameReset (c : Cfg) (s : State) : PerFrameReset (closed c s) := by
  unfold closed
  split <;> exact ⟨rfl, rfl, rfl, rfl, rfl⟩

/-- The parts a frame close may write. -/
def frameCloseParts : List Part := [.streamFlag, .perFrame, .published, .ready]

theorem closed_frame (c : Cfg) (s : State) : UnchangedBut frameCloseParts s (closed c s) := by
  have hstream : UnchangedBut frameCloseParts s (clearStream s) :=
    (clearStream_frame s).mono (by decide)
  have hpublish (u : State) : UnchangedBut frameCloseParts u (publish c u) :=
    (publish_frame c u).mono (by decide)
  have hreset (u : State) : UnchangedBut frameCloseParts u (frameReset u) :=
    (frameReset_frame u).mono (by decide)
  by_cases hw : s.wordIdx = 0
  · rw [closed_of_empty c s hw]
    exact hstream.trans (hreset _)
  · rw [closed_of_words c s hw]
    exact (hstream.trans (hpublish _)).trans (hreset _)

/-- A frame end without a Word leaves the published frame as it is. -/
theorem closed_publishes_nothing (c : Cfg) (s : State) (h : s.wordIdx = 0) :
    samePart s (closed c s) .published ∧ samePart s (closed c s) .ready := by
  rw [closed_of_empty c s h]
  exact ⟨⟨fun _ => rfl, rfl, rfl⟩, rfl⟩

theorem crcMatches_iff (c : Cfg) (rx : WordBuf 8) (n : Nat) :
    crcMatches c rx n = true ↔ bufRead rx (n - 1) = c.crc8 (bufReadAll rx (n - 1)) := by
  rw [crcMatches, beq_iff_eq]

theorem publish_pubWords_read (c : Cfg) (s : State) (k : Nat) :
    bufRead (publish c s).pubWords k =
      if k < s.wordIdx.toNat then bufRead s.rxWords k else bufRead s.pubWords k :=
  bufRead_copy s.pubWords s.rxWords s.wordIdx.toNat k

theorem publish_pubValid_iff (c : Cfg) (s : State) :
    (publish c s).pubValid = true ↔
      s.valid = true ∧ bufRead s.rxWords (s.wordIdx.toNat - 1) =
        c.crc8 (bufReadAll s.rxWords (s.wordIdx.toNat - 1)) := by
  rw [publish_pubValid, Bool.and_eq_true, crcMatches_iff]

/-- Settles O17, by whether the frame has a Word: the reset after the publication leaves the
published frame alone, so what is published is read off `publish`. -/
theorem frameCloseChecksAndPublishes : Obligations.FrameCloseChecksAndPublishes := by
  unfold Obligations.FrameCloseChecksAndPublishes
  intro s hfault hconf hstream hbit hidx
  have hloop := execOn_loop_of _ s _ hfault hconf (loopStep_frame _ s hstream hbit hidx)
  refine ⟨_, (exec_eq_execOn _ _).trans hloop, ⟨rfl, rfl⟩, closed_streamRx _ s,
    closed_perFrameReset _ s, (closed_frame _ s).respond _ _, ?_⟩
  split
  case isTrue hzero =>
    exact closed_publishes_nothing _ s (BitVec.eq_of_toNat_eq hzero)
  case isFalse hwords =>
    rw [closed_of_words _ s (fun h => hwords (congrArg BitVec.toNat h))]
    have hread := publish_pubWords_read Config.cfg (clearStream s)
    exact ⟨rfl, rfl, fun k hk => (hread k).trans (if_pos hk),
      fun k hk => (hread k).trans (if_neg (Nat.not_lt.2 hk)),
      publish_pubValid_iff Config.cfg (clearStream s)⟩

/-! ### The bit step: one equation for each class of count (R103 to R105) -/

theorem bitCases_noise (c : Cfg) (cnt : Count) (s : State) (h : cnt.toNat < c.bitMinLen) :
    bitCases c cnt s = .ok s := by
  rcases bitCases_cases c cnt s with ⟨-, heq⟩ | ⟨hge, -⟩ | ⟨hge, -⟩ | ⟨hge, -⟩
  · exact heq
  all_goals omega

theorem bitCases_startNoise (c : Cfg) (cnt : Count) (s : State) (hstart : s.startFlag = true)
    (h : cnt.toNat < c.startbitMinLen) : bitCases c cnt s = .ok s := by
  rcases bitCases_cases c cnt s with ⟨-, heq⟩ | ⟨-, -, -, heq⟩ | ⟨-, -, hge, -⟩ | ⟨-, hclear, -⟩
  · exact heq
  · exact heq
  · omega
  · simp [hstart] at hclear

theorem bitCases_startBit (c : Cfg) (cnt : Count) (s : State) (hstart : s.startFlag = true)
    (hbit : c.bitMinLen ≤ cnt.toNat) (hwide : c.startbitMinLen ≤ cnt.toNat) :
    bitCases c cnt s = .ok (loadThreshold c cnt s) := by
  rcases bitCases_cases c cnt s with ⟨hlt, -⟩ | ⟨-, -, hlt, -⟩ | ⟨-, -, -, heq⟩ | ⟨-, hclear, -⟩
  · omega
  · omega
  · exact heq
  · simp [hstart] at hclear

theorem bitCases_normal (c : Cfg) (cnt : Count) (s : State) (hstart : s.startFlag = false)
    (hbit : c.bitMinLen ≤ cnt.toNat) (hidx : s.wordIdx.toNat < c.maxWordlen) :
    bitCases c cnt s = .ok (assembleBit c (classify cnt s.threshold) s) := by
  rcases bitCases_cases c cnt s with ⟨hlt, -⟩ | ⟨-, hset, -⟩ | ⟨-, hset, -⟩ | ⟨-, -, heq⟩
  · omega
  · simp [hstart] at hset
  · simp [hstart] at hset
  · exact heq.trans (needWords_le _ _ _ hidx)

/-- LOOP with a pending bit alone, from what the bit step leaves. -/
theorem execOn_loop_bit (c : Cfg) (s u : State) (hfault : s.fault = none)
    (hconf : s.rxConfigured = true) (hstream : s.streamRx = false) (hbit : s.bitRx = true)
    (h : bitCases c s.pulseCnt (clearBit s) = .ok u) :
    execOn c .loop s = .next (respond [Instr.opcode .loop] [] u) :=
  execOn_loop_of c s u hfault hconf ((loopStep_bit c s hstream hbit).trans h)

/-- Settles O18: noise leaves the state that clearing `bitRx` gives. -/
theorem noiseIsConsumedAndDiscarded : Obligations.NoiseIsConsumedAndDiscarded := by
  unfold Obligations.NoiseIsConsumedAndDiscarded
  intro c s hfault hconf hstream hbit hnoise
  exact ⟨_, execOn_loop_bit c s _ hfault hconf hstream hbit (bitCases_noise c _ _ hnoise),
    ⟨rfl, rfl⟩, rfl, (clearBit_frame s).respond _ _⟩

/-- Settles O19, by the two minima of R104: a discarded count only clears `bitRx`, and the other
loads a threshold that fits a count on every legal configuration. -/
theorem startBitLoadsTheThreshold : Obligations.StartBitLoadsTheThreshold := by
  unfold Obligations.StartBitLoadsTheThreshold
  intro s hfault hconf hstream hbit hstart
  have hloop (u : State) (h : bitCases Config.cfg s.pulseCnt (clearBit s) = .ok u) :=
    (exec_eq_execOn _ _).trans (execOn_loop_bit _ s u hfault hconf hstream hbit h)
  have hclear : UnchangedBut [.bitFlag, .perFrame] s (clearBit s) :=
    (clearBit_frame s).mono (by decide)
  by_cases hnoise : s.pulseCnt.toNat < Config.cfg.bitMinLen
  · refine ⟨_, hloop _ (bitCases_noise _ _ _ hnoise), ⟨rfl, rfl⟩, rfl, hclear.respond _ _,
      rfl, rfl, rfl, ?_⟩
    rw [if_pos hnoise]
    exact ⟨rfl, hstart⟩
  by_cases hnarrow : s.pulseCnt.toNat < Config.cfg.startbitMinLen
  · refine ⟨_, hloop _ (bitCases_startNoise _ _ _ hstart hnarrow), ⟨rfl, rfl⟩, rfl,
      hclear.respond _ _, rfl, rfl, rfl, ?_⟩
    rw [if_neg hnoise, if_pos hnarrow]
    exact ⟨rfl, hstart⟩
  · have hload : UnchangedBut [.bitFlag, .perFrame] (clearBit s)
        (loadThreshold Config.cfg s.pulseCnt (clearBit s)) :=
      (loadThreshold_frame _ _ _).mono (by decide)
    refine ⟨_, hloop _ (bitCases_startBit _ _ _ hstart (Nat.not_lt.1 hnoise)
        (Nat.not_lt.1 hnarrow)), ⟨rfl, rfl⟩, rfl, (hclear.trans hload).respond _ _,
      rfl, rfl, rfl, ?_⟩
    rw [if_neg hnoise, if_neg hnarrow]
    exact ⟨thresholdOf_toNat _ Config_wf _, rfl⟩

/-! ### A normal bit (R105, R106) -/

theorem assembleBit_parity (c : Cfg) (b : Bool) (s : State) (h : s.bitIdx = 8) :
    assembleBit c b s = parityBit c b s := by
  rw [assembleBit, if_pos h]

theorem assembleBit_data (c : Cfg) (b : Bool) (s : State) (h : s.bitIdx ≠ 8) :
    assembleBit c b s = dataBit c b s := by
  rw [assembleBit, if_neg h]

@[simp] theorem assembleBit_bitRx (c : Cfg) (b : Bool) (s : State) :
    (assembleBit c b s).bitRx = s.bitRx := by
  unfold assembleBit
  split <;> rfl

@[simp] theorem assembleBit_streamRx (c : Cfg) (b : Bool) (s : State) :
    (assembleBit c b s).streamRx = s.streamRx := by
  unfold assembleBit
  split <;> rfl

/-- The parity check compares the bit's class with the parity of the Word's eight payload bits,
all of them in the buffer at position 8. -/
theorem parityBit_valid_iff (c : Cfg) (cnt threshold : Count) (s : State) (h : s.bitIdx = 8) :
    (parityBit c (classify cnt threshold) s).valid = true ↔
      s.valid = true ∧
        (cnt.toNat < threshold.toNat ↔ popcount (bufRead s.rxWords s.wordIdx.toNat) % 2 = 0) := by
  have hword : currentWord s = bufRead s.rxWords s.wordIdx.toNat := by
    simp [currentWord, h]
  rw [parityBit_valid, Bool.and_eq_true, beq_iff_eq, hword, ← classify_iff, ← parityOdd_iff,
    ← Bool.eq_iff_iff]

theorem parityBit_wordIdx_toNat (c : Cfg) (hwf : c.WF) (b : Bool) (s : State) :
    (parityBit c b s).wordIdx.toNat =
      if s.wordIdx.toNat + 1 ≥ c.maxWordlen then 0 else s.wordIdx.toNat + 1 :=
  overflowGuard_toNat c hwf _

theorem placeBit_classify (word : Byte) (cnt threshold : Count) (i : BitIndex) :
    placeBit word (classify cnt threshold) i =
      word ||| (if cnt.toNat < threshold.toNat then (1 : Byte) <<< i.toNat else 0) := by
  by_cases h : cnt.toNat < threshold.toNat <;> simp [placeBit, classify, h]

/-- The overflow guard does not move an index that is in the buffer. -/
theorem overflowGuard_of_lt (c : Cfg) (w : WordIndex) (h : w.toNat < c.maxWordlen) :
    overflowGuard c w.toNat = w := by
  rw [overflowGuard, if_neg (Nat.not_le.2 h), BitVec.ofNat_toNat, BitVec.setWidth_eq]

theorem dataBit_wordIdx_of_lt (c : Cfg) (b : Bool) (s : State)
    (h : s.wordIdx.toNat < c.maxWordlen) : (dataBit c b s).wordIdx = s.wordIdx :=
  overflowGuard_of_lt c s.wordIdx h

theorem dataBit_word (c : Cfg) (b : Bool) (s : State) :
    bufRead (dataBit c b s).rxWords s.wordIdx.toNat = placeBit (currentWord s) b s.bitIdx :=
  bufRead_bufWrite_self _ _ _

theorem dataBit_other_words (c : Cfg) (b : Bool) (s : State) (k : Nat)
    (h : k ≠ s.wordIdx.toNat) :
    bufRead (dataBit c b s).rxWords k = bufRead s.rxWords k :=
  bufRead_bufWrite_ne _ _ _ _ h

/-- Settles O20, by the width of the count and then the bit's position: noise only clears `bitRx`,
a parity bit stores nothing, and a payload bit writes the current Word alone. -/
theorem normalBitIsAssembledOrParityChecked :
    Obligations.NormalBitIsAssembledOrParityChecked := by
  unfold Obligations.NormalBitIsAssembledOrParityChecked
  intro s hfault hconf hstream hbit hstart _ hidx
  have hloop (u : State) (h : bitCases Config.cfg s.pulseCnt (clearBit s) = .ok u) :=
    (exec_eq_execOn _ _).trans (execOn_loop_bit _ s u hfault hconf hstream hbit h)
  have hclear : UnchangedBut [.bitFlag, .perFrame, .rxBuffer] s (clearBit s) :=
    (clearBit_frame s).mono (by decide)
  by_cases hnoise : s.pulseCnt.toNat < Config.cfg.bitMinLen
  · have hframe := (clearBit_frame s).respond [Instr.opcode .loop] []
    refine ⟨_, hloop _ (bitCases_noise _ _ _ hnoise), ⟨rfl, rfl⟩, rfl, hclear.respond _ _,
      rfl, hstart, fun _ _ => rfl, ?_⟩
    rw [if_pos hnoise]
    exact ⟨hframe _ (by decide), hframe _ (by decide)⟩
  have hstep := bitCases_normal Config.cfg s.pulseCnt (clearBit s) hstart (Nat.not_lt.1 hnoise)
    hidx
  by_cases hpos : s.bitIdx = 8
  · rw [assembleBit_parity _ _ (clearBit s) hpos] at hstep
    have hparity : UnchangedBut [.bitFlag, .perFrame, .rxBuffer] (clearBit s)
        (parityBit Config.cfg (classify s.pulseCnt s.threshold) (clearBit s)) :=
      (parityBit_frame _ _ _).mono (by decide)
    refine ⟨_, hloop _ hstep, ⟨rfl, rfl⟩, rfl, (hclear.trans hparity).respond _ _, rfl, hstart,
      fun _ _ => rfl, ?_⟩
    rw [if_neg hnoise, if_pos hpos]
    exact ⟨fun _ => rfl, rfl,
      parityBit_wordIdx_toNat _ Config_wf (classify s.pulseCnt s.threshold) (clearBit s),
      parityBit_valid_iff Config.cfg _ _ (clearBit s) hpos⟩
  · rw [assembleBit_data _ _ (clearBit s) hpos] at hstep
    have hdata : UnchangedBut [.bitFlag, .perFrame, .rxBuffer] (clearBit s)
        (dataBit Config.cfg (classify s.pulseCnt s.threshold) (clearBit s)) :=
      (dataBit_frame _ _ _).mono (by decide)
    refine ⟨_, hloop _ hstep, ⟨rfl, rfl⟩, rfl, (hclear.trans hdata).respond _ _, rfl, hstart,
      dataBit_other_words Config.cfg _ (clearBit s), ?_⟩
    rw [if_neg hnoise, if_neg hpos]
    exact ⟨(dataBit_word Config.cfg _ (clearBit s)).trans (placeBit_classify _ _ _ _), rfl,
      dataBit_wordIdx_of_lt _ (classify s.pulseCnt s.threshold) (clearBit s) hidx, rfl⟩

/-! ### The order of LOOP's two branches (R100) -/

theorem execOn_loop_unconfigured (c : Cfg) (s : State) (hfault : s.fault = none)
    (hconf : s.rxConfigured = false) :
    execOn c .loop s = .next (raiseFault .notConfigured (Instr.opcode .loop) s) := by
  simp [execOn_loop c s hfault, loopCommand, hconf]

theorem assembleBit_respond (c : Cfg) (b : Bool) (ops bytes : List Byte) (s : State) :
    assembleBit c b (respond ops bytes s) = respond ops bytes (assembleBit c b s) := by
  by_cases h : s.bitIdx = 8
  · rw [assembleBit_parity c b s h, assembleBit_parity c b (respond ops bytes s) h]
    rfl
  · rw [assembleBit_data c b s h, assembleBit_data c b (respond ops bytes s) h]
    rfl

theorem needWords_respond (c : Cfg) (n : Nat) (ops bytes : List Byte) (s : State) :
    needWords c n (respond ops bytes s) = (needWords c n s).map (respond ops bytes) := by
  unfold needWords
  split <;> rfl

/-- The bit step neither reads nor writes the outputs of the step before. -/
theorem bitCases_respond (c : Cfg) (cnt : Count) (ops bytes : List Byte) (s : State) :
    bitCases c cnt (respond ops bytes s) = (bitCases c cnt s).map (respond ops bytes) := by
  unfold bitCases
  rw [respond_startFlag, respond_threshold]
  cases pulseClass c s.startFlag s.threshold cnt
  case one | zero =>
    simp only [assembleBit_respond, needWords_respond, respond_wordIdx]
  all_goals rfl

/-- LOOP in a running block that is set up: its outputs replace those its branches find. -/
theorem execOn_loop_configured (c : Cfg) (s : State) (hfault : s.fault = none)
    (hconf : s.rxConfigured = true) :
    execOn c .loop s = outcomeOf ((loopStep c s).map (respond [Instr.opcode .loop] [])) := by
  rw [execOn_loop c s hfault, loopCommand, if_pos hconf]
  cases loopStep c s <;> rfl

theorem closed_clearBit (c : Cfg) (s : State) : closed c (clearBit s) = clearBit (closed c s) := by
  by_cases hw : s.wordIdx = 0
  · rw [closed_of_empty c s hw, closed_of_empty c (clearBit s) hw]
    rfl
  · rw [closed_of_words c s hw, closed_of_words c (clearBit s) hw]
    rfl

/-- Setting the pending bit again undoes its clearing. -/
theorem setPending_respond_clearBit (ops bytes : List Byte) (s : State) (h : s.bitRx = true) :
    { respond ops bytes (clearBit s) with bitRx := true } = respond ops bytes s := by
  cases s
  cases h
  rfl

/-- A LOOP that answers with a frame end pending found every Word of the frame in the buffer. -/
theorem exec_loop_wordIdx_le (s t : State) (hconf : s.rxConfigured = true)
    (hstream : s.streamRx = true) (h : exec .loop s = .next t) :
    s.wordIdx.toNat ≤ Config.cfg.maxWordlen := by
  obtain ⟨-, ⟨hunconf, -⟩ | ⟨-, s1, s2, hframe, -, -⟩⟩ := exec_leaves .loop s t h
  · simp [hconf] at hunconf
  · rcases frameBranch_cases _ _ _ hframe with ⟨hclear, -⟩ | ⟨-, hidx, -⟩
    · simp [hstream] at hclear
    · exact hidx

/-- With both flags set LOOP's bit step meets what the frame close leaves (R107), whatever the
outputs. -/
theorem loopStep_respond_closed (c : Cfg) (ops bytes : List Byte) (s : State)
    (hstream : s.streamRx = true) (hbit : s.bitRx = true)
    (hidx : s.wordIdx.toNat ≤ c.maxWordlen) :
    loopStep c (respond ops bytes (closed c s)) =
      (loopStep c s).map (respond ops bytes) := by
  have hpending : (respond ops bytes (closed c s)).bitRx = true := (closed_bitRx c s).trans hbit
  rw [loopStep_both c s hstream hbit hidx, ← bitCases_respond,
    loopStep_bit c (respond ops bytes (closed c s)) (closed_streamRx c s) hpending,
    respond_pulseCnt, closed_pulseCnt]
  rfl

theorem execOn_loop_respond_closed (c : Cfg) (ops bytes : List Byte) (s : State)
    (hfault : s.fault = none) (hconf : s.rxConfigured = true)
    (hstream : s.streamRx = true) (hbit : s.bitRx = true)
    (hidx : s.wordIdx.toNat ≤ c.maxWordlen) :
    execOn c .loop (respond ops bytes (closed c s)) = execOn c .loop s := by
  have hfault' : (respond ops bytes (closed c s)).fault = none := (closed_fault c s).trans hfault
  have hconf' : (respond ops bytes (closed c s)).rxConfigured = true :=
    (closed_rxConfigured c s).trans hconf
  rw [execOn_loop_configured c s hfault hconf, execOn_loop_configured c _ hfault' hconf',
    loopStep_respond_closed c ops bytes s hstream hbit hidx]
  cases loopStep c s <;> rfl

/-- A LOOP without the pending bit leaves the closed frame, on which the LOOP with the bit set again
does what the LOOP with both flags does (R100). -/
theorem exec_loop_both (s u : State) (hfault : s.fault = none) (hconf : s.rxConfigured = true)
    (hstream : s.streamRx = true) (hbit : s.bitRx = true)
    (hu : exec .loop (clearBit s) = .next u) :
    exec .loop s = exec .loop { u with bitRx := true } := by
  have hidx : s.wordIdx.toNat ≤ Config.cfg.maxWordlen :=
    exec_loop_wordIdx_le (clearBit s) u hconf hstream hu
  have hclose := execOn_loop_of Config.cfg (clearBit s) _ hfault hconf
    (loopStep_frame _ (clearBit s) hstream rfl hidx)
  rw [exec_eq_execOn, hclose, closed_clearBit] at hu
  obtain rfl := Host.Outcome.next.inj hu
  rw [setPending_respond_clearBit _ _ _ ((closed_bitRx _ s).trans hbit), exec_eq_execOn,
    exec_eq_execOn, execOn_loop_respond_closed _ _ _ s hfault hconf hstream hbit hidx]

theorem frameBranch_clears_streamRx (c : Cfg) (s t : State) (h : frameBranch c s = .ok t) :
    t.streamRx = false := by
  rcases frameBranch_cases c s t h with ⟨hclear, rfl⟩ | ⟨-, -, rfl⟩
  · exact hclear
  · exact closed_streamRx c s

/-- The bit branch consumes the pending bit and does not touch the frame-end flag. -/
theorem bitBranch_clears_bitRx (c : Cfg) (s t : State) (h : bitBranch c s = .ok t) :
    t.streamRx = s.streamRx ∧ t.bitRx = false := by
  rcases bitBranch_cases c s t h with ⟨hclear, rfl⟩ | ⟨-, rfl | ⟨-, rfl⟩ | ⟨-, -, rfl⟩⟩
  · exact ⟨rfl, hclear⟩
  · exact ⟨rfl, rfl⟩
  · exact ⟨rfl, rfl⟩
  · exact ⟨assembleBit_streamRx _ _ _, assembleBit_bitRx _ _ _⟩

theorem exec_loop_clears_flags (s t : State) (hconf : s.rxConfigured = true)
    (h : exec .loop s = .next t) : t.streamRx = false ∧ t.bitRx = false := by
  obtain ⟨-, ⟨hunconf, -⟩ | ⟨-, s1, s2, hframe, hbit, rfl⟩⟩ := exec_leaves .loop s t h
  · simp [hconf] at hunconf
  · obtain ⟨hstream, hbitRx⟩ := bitBranch_clears_bitRx _ _ _ hbit
    exact ⟨hstream.trans (frameBranch_clears_streamRx _ _ _ hframe), hbitRx⟩

/-- Settles O16, clause by clause: the guard, the idle LOOP, the order of the branches, and the
flags each branch clears. -/
theorem loopTakesTheFrameEndFirst : Obligations.LoopTakesTheFrameEndFirst := by
  unfold Obligations.LoopTakesTheFrameEndFirst
  refine ⟨fun s hfault hconf => ?_, fun s hfault hconf hstream hbit => ?_,
    exec_loop_both, exec_loop_clears_flags⟩
  · exact ⟨_, (exec_eq_execOn _ _).trans (execOn_loop_unconfigured _ s hfault hconf), rfl, rfl,
      raiseFault_frame _ _ s⟩
  · exact ⟨_, (exec_eq_execOn _ _).trans
        (execOn_loop_of _ s s hfault hconf (loopStep_idle _ s hstream hbit)), ⟨rfl, rfl⟩,
      (unchangedBut_refl _ s).respond _ _⟩

/-! ### READ (R108) -/

theorem execOn_read_unconfigured (c : Cfg) (s : State) (hfault : s.fault = none)
    (hconf : s.rxConfigured = false) :
    execOn c .read s = .next (raiseFault .notConfigured (Instr.opcode .read) s) := by
  simp [execOn_read c s hfault, readCommand, hconf]

theorem execOn_read_empty (c : Cfg) (s : State) (hfault : s.fault = none)
    (hconf : s.rxConfigured = true) (hready : s.dataReady = false) :
    execOn c .read s = .next (respond [Instr.opcode .read] [0] s) := by
  simp [execOn_read c s hfault, readCommand, hconf, hready]

theorem execOn_read_ready (c : Cfg) (s : State) (hfault : s.fault = none)
    (hconf : s.rxConfigured = true) (hready : s.dataReady = true)
    (hlen : s.pubLen.toNat ≤ c.maxWordlen) :
    execOn c .read s =
      .next (respond [Instr.opcode .read] (frameResponse s) (clearReady s)) := by
  simp [execOn_read c s hfault, readCommand, hconf, hready, needWords_le c _ _ hlen, outcomeOf]

/-- Settles O23: a READ that returns the frame clears data-ready, so the next READ is the empty
one. -/
theorem readReturnsTheFrameOnce : Obligations.ReadReturnsTheFrameOnce := by
  unfold Obligations.ReadReturnsTheFrameOnce
  refine ⟨fun s hfault hconf => ?_, fun s hfault hconf hready => ?_,
    fun s hfault hconf hready hlen => ?_⟩
  · exact ⟨_, (exec_eq_execOn _ _).trans (execOn_read_unconfigured _ s hfault hconf), rfl, rfl,
      raiseFault_frame _ _ s⟩
  · exact ⟨_, (exec_eq_execOn _ _).trans (execOn_read_empty _ s hfault hconf hready), ⟨rfl, rfl⟩,
      (unchangedBut_refl _ s).respond _ _⟩
  · have hfirst := execOn_read_ready Config.cfg s hfault hconf hready hlen
    have hsecond := execOn_read_empty Config.cfg
      (respond [Instr.opcode .read] (frameResponse s) (clearReady s)) hfault hconf rfl
    exact ⟨_, _, (exec_eq_execOn _ _).trans hfirst, ⟨rfl, rfl⟩, rfl,
      (clearReady_frame s).respond _ _, (exec_eq_execOn _ _).trans hsecond, ⟨rfl, rfl⟩,
      (unchangedBut_refl _ _).respond _ _⟩

end Sys2Proof.Machine
end

section
/-! What the operations that SEND and TXTICK are made of write and leave unchanged. -/

namespace Sys2Proof.Machine

theorem rxReset_frame (s : State) : UnchangedBut resetParts s (rxReset s) := by
  intro p hp
  cases p
  case capture | bitFlag | streamFlag | perFrame => simp [resetParts] at hp
  all_goals simp [samePart, sameWords]

theorem rxReset_receiveReset (s : State) : ReceiveReset (rxReset s) :=
  ⟨rfl, rfl, rfl, rfl, rfl, rfl, rfl, rfl, rfl, rfl, rfl, rfl⟩

theorem setEnabled_frame (b : Bool) (s : State) : UnchangedBut [.enabled] s (setEnabled b s) := by
  intro p hp
  cases p
  case enabled => simp at hp
  all_goals simp [samePart, sameWords]

theorem stopOutputs_frame (s : State) :
    UnchangedBut [.transmission, .carrier, .txEnable] s (stopOutputs s) := by
  intro p hp
  cases p
  case transmission | carrier | txEnable => simp at hp
  all_goals simp [samePart, sameWords]

theorem countdown_frame (s : State) : UnchangedBut [.scheduler] s (countdown s) := by
  intro p hp
  cases p
  case scheduler => simp at hp
  all_goals simp [samePart, sameWords]

/-- Whatever symbol a load phase loads, it writes the scheduler and the carrier alone. -/
theorem unchangedBut_scheduler_carrier (s : State) (cursor : BitCursor) (remaining : TickCount)
    (next : TxNext) (carrier : Bool) :
    UnchangedBut [.scheduler, .carrier] s
      { s with
        txCursor := cursor, txRemaining := remaining, txNext := next, carrierOn := carrier } := by
  intro p hp
  cases p
  case scheduler | carrier => simp at hp
  all_goals simp [samePart, sameWords]

theorem loadStart_frame (c : Cfg) (s : State) :
    UnchangedBut [.scheduler, .carrier] s (loadStart c s) :=
  unchangedBut_scheduler_carrier s _ _ _ _

theorem loadData_frame (c : Cfg) (s : State) :
    UnchangedBut [.scheduler, .carrier] s (loadData c s) :=
  unchangedBut_scheduler_carrier s _ _ _ _

theorem loadPause_frame (c : Cfg) (s : State) :
    UnchangedBut [.scheduler, .carrier] s (loadPause c s) :=
  unchangedBut_scheduler_carrier s _ _ _ _

/-- The parts an accepted SEND may write. -/
def sendParts : List Part :=
  resetParts ++ [.enabled, .txFrame, .scheduler, .transmission, .txEnable]

theorem sendAccept_frame (c : Cfg) (bytes : List Byte) (s : State) :
    UnchangedBut sendParts s (sendAccept c bytes s) := by
  intro p hp
  cases p
  case capture | bitFlag | streamFlag | perFrame | enabled | txFrame | scheduler | transmission
      | txEnable =>
    simp [sendParts, resetParts] at hp
  all_goals simp [samePart, sameWords]

end Sys2Proof.Machine
end

section
/-! The statements about transmission (spec/43_tx.md), settled. -/

namespace Sys2Proof.Machine

/-! ### SEND (R120 to R123) -/

/-- What SEND_ACCEPT leaves (R122, R123). A payload short enough to be accepted has a bit length
that the 12-bit cursor holds. -/
theorem sendAccept_accepted (c : Cfg) (hwf : c.WF) (bytes : List Byte) (s : State)
    (hlen : bytes.length < c.maxWordlen - 1) (ops out : List Byte) :
    SendAccepted c bytes s (respond ops out (sendAccept c bytes s)) := by
  have ⟨⟨_, hmax⟩, _⟩ := hwf
  have hread := bufRead_sendAccept c bytes s
  have hpayload (k : Nat) (h : k < bytes.length) :
      bufRead (sendAccept c bytes s).txWords k = pack9 bytes[k] := by
    rw [hread, dif_pos h]
  have hcrc : bufRead (sendAccept c bytes s).txWords bytes.length = pack9 (c.crc8 bytes) := by
    rw [hread, dif_neg (lt_irrefl _), if_pos rfl]
  have hrest (k : Nat) (h : bytes.length < k) :
      bufRead (sendAccept c bytes s).txWords k = bufRead s.txWords k := by
    rw [hread, dif_neg h.not_gt, if_neg h.ne']
  exact ⟨hpayload, hcrc, hrest, frameBitLen_toNat _ (by omega), rfl, rfl, rfl, rfl,
    rxReset_receiveReset s, rfl, rfl, rfl, (sendAccept_frame c bytes s).respond ops out⟩

theorem not_busy_or_long {c : Cfg} {length : Nat} {s : State} (hidle : s.transmitting = false)
    (hlen : length < c.maxWordlen - 1) :
    ¬(s.transmitting = true ∨ length ≥ c.maxWordlen - 1) :=
  not_or.2 ⟨by simp [hidle], hlen.not_ge⟩

/-- Settles O27, by SEND's three answers: not set up, busy or too long, and accepted. -/
theorem sendAnswersWhetherAccepted : Obligations.SendAnswersWhetherAccepted := by
  unfold Obligations.SendAnswersWhetherAccepted
  intro bytes s hfault
  have hsend := (exec_eq_execOn (.send bytes) s).trans (execOn_send _ bytes s hfault)
  refine ⟨_, hsend, ?_⟩
  rcases sendCommand_cases Config.cfg bytes s with
    ⟨hconf, hcmd⟩ | ⟨hconf, hrej, hcmd⟩ | ⟨hconf, hidle, hlen, hcmd⟩
  · rw [hcmd, if_pos hconf]
    exact ⟨rfl, rfl, raiseFault_frame _ _ s⟩
  · rw [hcmd, if_neg (by simp [hconf]), if_pos hrej]
    exact ⟨⟨rfl, rfl⟩, (unchangedBut_refl _ s).respond _ _⟩
  · rw [hcmd, if_neg (by simp [hconf]), if_neg (not_busy_or_long hidle hlen)]
    exact ⟨⟨rfl, rfl⟩, sendAccept_accepted _ Config_wf bytes s hlen _ _⟩

/-- Settles O28: the second of the three answers. -/
theorem rejectedSendChangesNothing : Obligations.RejectedSendChangesNothing := by
  unfold Obligations.RejectedSendChangesNothing
  intro bytes s hfault hconf hrej
  obtain ⟨t, hsend, hanswer⟩ := sendAnswersWhetherAccepted bytes s hfault
  rw [if_neg (by simp [hconf]), if_pos hrej] at hanswer
  exact ⟨t, hsend, hanswer⟩

/-- Settles O29: the third of the three answers, as the SEND is neither busy nor too long. -/
theorem acceptedSendLoadsTheFrame : Obligations.AcceptedSendLoadsTheFrame := by
  unfold Obligations.AcceptedSendLoadsTheFrame
  intro bytes s hfault hconf hidle hlen
  obtain ⟨t, hsend, hanswer⟩ := sendAnswersWhetherAccepted bytes s hfault
  rw [if_neg (by simp [hconf]), if_neg (not_busy_or_long hidle hlen)] at hanswer
  exact ⟨t, hsend, hanswer⟩

/-! ### TXTICK with the timer stopped or ticks left (R124, R125) -/

theorem exec_txTick (s : State) (hfault : s.fault = none) :
    exec .txTick s = .next (respond [0x03] [] (txTickStep Config.cfg s)) :=
  (exec_eq_execOn _ _).trans (execOn_txTick _ s hfault)

theorem txTickStep_of_stopped (c : Cfg) (s : State) (hrun : s.txTimerRun = false) :
    txTickStep c s = s := by
  simp [txTickStep, hrun]

theorem txTickStep_of_ticks_left (c : Cfg) (s : State) (hrun : s.txTimerRun = true)
    (hrem : s.txRemaining ≠ 0) : txTickStep c s = countdown s := by
  rw [txTickStep, if_pos hrun, if_neg hrem]

theorem txTickStep_of_no_ticks (c : Cfg) (s : State) (hrun : s.txTimerRun = true)
    (hrem : s.txRemaining = 0) : txTickStep c s = loadPhase c s := by
  rw [txTickStep, if_pos hrun, if_pos hrem]

/-- A tick taken off a counter that is not 0 does not wrap. -/
theorem countdown_txRemaining_toNat (s : State) (hrem : s.txRemaining ≠ 0) :
    (countdown s).txRemaining.toNat = s.txRemaining.toNat - 1 := by
  rw [countdown_txRemaining]
  bv_omega

/-- Settles O30, by whether the timer runs. -/
theorem txTickCountsDown : Obligations.TxTickCountsDown := by
  unfold Obligations.TxTickCountsDown
  refine ⟨fun s hfault hrun => ?_, fun s hfault hrun hrem => ?_⟩
  · refine ⟨_, exec_txTick s hfault, ⟨rfl, rfl⟩, ?_⟩
    rw [txTickStep_of_stopped _ s hrun]
    exact (unchangedBut_refl _ s).respond _ _
  · refine ⟨_, exec_txTick s hfault, ⟨rfl, rfl⟩, ?_⟩
    rw [txTickStep_of_ticks_left _ s hrun hrem]
    exact ⟨(countdown_frame s).respond _ _, countdown_txRemaining_toNat s hrem, rfl, rfl⟩

/-! ### The transmit stop (R128) -/

theorem txDone_iff (c : Cfg) (s : State) :
    txDone c s = true ↔
      s.txCursor.toNat ≥ s.txBitLen.toNat ∨ s.txCursor.toNat ≥ 9 * c.maxWordlen := by
  rw [txDone, Bool.or_eq_true, decide_eq_true_iff, decide_eq_true_iff]

theorem loadPhase_of_done (c : Cfg) (s : State) (hdone : txDone c s = true) :
    loadPhase c s = txStop s := by
  rw [loadPhase, if_pos hdone]

/-- The parts a transmit stop may write where receive is set up. -/
def stopParts : List Part := resetParts ++ [.enabled, .transmission, .carrier, .txEnable]

/-- What TX_STOP leaves, without and with a receive path. -/
theorem txStop_stopped (s : State) (ops out : List Byte) :
    TransmitStopped s (respond ops out (txStop s)) := by
  rcases txStop_cases s with ⟨hconf, hstop⟩ | ⟨hconf, hstop⟩
  · rw [hstop, TransmitStopped, if_neg (by simp [hconf])]
    exact ⟨rfl, rfl, rfl, rfl, (stopOutputs_frame s).respond _ _⟩
  · have houtputs : UnchangedBut stopParts s (stopOutputs s) :=
      (stopOutputs_frame s).mono (by decide)
    have henabled (u : State) : UnchangedBut stopParts u (setEnabled true u) :=
      (setEnabled_frame true u).mono (by decide)
    have hreset (u : State) : UnchangedBut stopParts u (rxReset u) :=
      (rxReset_frame u).mono (by decide)
    rw [hstop, TransmitStopped, if_pos hconf]
    exact ⟨rfl, rfl, rfl, rfl, rfl, rxReset_receiveReset (setEnabled true (stopOutputs s)),
      ((houtputs.trans (henabled _)).trans (hreset _)).respond _ _⟩

/-- Settles O32: at the end of the frame the load phase is the transmit stop. -/
theorem transmitStopReenablesReceive : Obligations.TransmitStopReenablesReceive := by
  unfold Obligations.TransmitStopReenablesReceive
  intro s hfault hrun hrem hdone
  refine ⟨_, exec_txTick s hfault, ⟨rfl, rfl⟩, ?_⟩
  rw [txTickStep_of_no_ticks _ s hrun hrem, loadPhase_of_done _ s ((txDone_iff _ s).2 hdone)]
  exact txStop_stopped s _ _

/-! ### The load phase (R126) -/

theorem loadPhase_of_start (c : Cfg) (s : State) (hmore : txDone c s = false)
    (hnext : s.txNext = .start) : loadPhase c s = loadStart c s := by
  simp [loadPhase, hmore, hnext]

theorem loadPhase_of_data (c : Cfg) (s : State) (hmore : txDone c s = false)
    (hnext : s.txNext = .data) : loadPhase c s = loadData c s := by
  simp [loadPhase, hmore, hnext]

theorem loadPhase_of_pause (c : Cfg) (s : State) (hmore : txDone c s = false)
    (hnext : s.txNext = .pause) : loadPhase c s = loadPause c s := by
  simp [loadPhase, hmore, hnext]

theorem loadStart_txRemaining_toNat (c : Cfg) (hwf : c.WF) (s : State) :
    (loadStart c s).txRemaining.toNat = c.startbitPulsenum := by
  have ⟨_, _, _, _, _, hstart, _⟩ := hwf
  rw [loadStart_txRemaining, BitVec.toNat_ofNat, Nat.mod_eq_of_lt hstart]

theorem loadPause_txRemaining_toNat (c : Cfg) (hwf : c.WF) (s : State) :
    (loadPause c s).txRemaining.toNat = c.pausePulsenum := by
  have ⟨_, _, _, _, _, _, hpause, _⟩ := hwf
  rw [loadPause_txRemaining, BitVec.toNat_ofNat, Nat.mod_eq_of_lt hpause]

/-- The cursor of a data burst is below the bit length, so it does not wrap. -/
theorem loadData_txCursor_toNat (c : Cfg) (s : State)
    (hmore : s.txCursor.toNat < s.txBitLen.toNat) :
    (loadData c s).txCursor.toNat = s.txCursor.toNat + 1 := by
  rw [loadData_txCursor]
  bv_omega

/-- Settles O31: the stop test comes first, and a frame that is not at its end gets the symbol
`txNext` names. -/
theorem loadPhaseEmitsTheNextSymbol : Obligations.LoadPhaseEmitsTheNextSymbol := by
  unfold Obligations.LoadPhaseEmitsTheNextSymbol
  intro s hfault hrun hrem
  split
  case isTrue hdone => exact transmitStopReenablesReceive s hfault hrun hrem hdone
  case isFalse hend =>
    have hmore : txDone Config.cfg s = false :=
      Bool.eq_false_of_not_eq_true (mt (txDone_iff _ s).1 hend)
    refine ⟨_, exec_txTick s hfault, ⟨rfl, rfl⟩, ?_⟩
    rw [txTickStep_of_no_ticks _ s hrun hrem]
    cases hnext : s.txNext with
    | start =>
      rw [loadPhase_of_start _ s hmore hnext]
      exact ⟨(loadStart_frame _ s).respond _ _, rfl,
        loadStart_txRemaining_toNat Config.cfg Config_wf s, rfl, rfl⟩
    | data =>
      have hcursor : s.txCursor.toNat < s.txBitLen.toNat := Nat.not_le.1 (not_or.1 hend).1
      rw [loadPhase_of_data _ s hmore hnext]
      exact ⟨(loadData_frame _ s).respond _ _, rfl,
        pulseLengthForBit_toNat Config.cfg Config_wf _,
        loadData_txCursor_toNat Config.cfg s hcursor, rfl⟩
    | pause =>
      rw [loadPhase_of_pause _ s hmore hnext]
      exact ⟨(loadPause_frame _ s).respond _ _, rfl,
        loadPause_txRemaining_toNat Config.cfg Config_wf s, rfl, rfl⟩

end Sys2Proof.Machine
end

section
/-! What the operations that setup, enable and disable are made of write and leave unchanged. -/

namespace Sys2Proof.Machine

theorem configureRx_frame (s : State) : UnchangedBut [.setup] s (configureRx s) := by
  intro p hp
  cases p
  case setup => simp at hp
  all_goals simp [samePart, sameWords]

theorem configureTx_frame (s : State) : UnchangedBut [.setup] s (configureTx s) := by
  intro p hp
  cases p
  case setup => simp at hp
  all_goals simp [samePart, sameWords]

/-- The parts a SETUP_TX may write. -/
def setupTxParts : List Part := [.setup, .transmission, .carrier, .txEnable]

theorem configureTx_stopOutputs_frame (s : State) :
    UnchangedBut setupTxParts s (configureTx (stopOutputs s)) :=
  ((stopOutputs_frame s).mono (by decide)).trans ((configureTx_frame _).mono (by decide))

/-- Receive switched on or off and reset: RX_RESET does not touch `rxEnabled`. -/
theorem rxReset_setEnabled_frame (b : Bool) (s : State) :
    UnchangedBut (resetParts ++ [.enabled]) s (rxReset (setEnabled b s)) :=
  ((setEnabled_frame b s).mono (by decide)).trans ((rxReset_frame _).mono (by decide))

/-- The parts a SETUP_RX may write. -/
def setupRxParts : List Part := resetParts ++ [.setup, .enabled]

theorem rxReset_setEnabled_configureRx_frame (b : Bool) (s : State) :
    UnchangedBut setupRxParts s (rxReset (setEnabled b (configureRx s))) :=
  ((configureRx_frame s).mono (by decide)).trans
    ((rxReset_setEnabled_frame b _).mono (by decide))

/-- A step's outputs are nothing that RX_RESET writes. -/
theorem ReceiveReset.respond {t : State} (h : ReceiveReset t) (ops bytes : List Byte) :
    ReceiveReset (respond ops bytes t) := h

theorem sendAccept_receiveReset (c : Cfg) (bytes : List Byte) (s : State) :
    ReceiveReset (sendAccept c bytes s) :=
  rxReset_receiveReset s

end Sys2Proof.Machine
end

section
/-! The statements about setup, enable, disable and the receive reset (spec/44_control.md),
settled. -/

namespace Sys2Proof.Machine

/-! ### The setups (R135, R136) -/

/-- Settles O34, by whether the receive path is set up. -/
theorem setupRxEnablesReceiveOnce : Obligations.SetupRxEnablesReceiveOnce := by
  unfold Obligations.SetupRxEnablesReceiveOnce
  intro s hfault
  refine ⟨_, (exec_eq_execOn _ _).trans (execOn_setupRx _ s hfault), ?_⟩
  split
  case isTrue => exact ⟨rfl, rfl, raiseFault_frame _ _ s⟩
  case isFalse =>
    exact ⟨⟨rfl, rfl⟩, rfl, rfl, rfl, (rxReset_receiveReset _).respond _ _,
      (rxReset_setEnabled_configureRx_frame true s).respond _ _⟩

/-- Settles O35, by whether the transmit path is set up. -/
theorem setupTxStopsTheTimerOnce : Obligations.SetupTxStopsTheTimerOnce := by
  unfold Obligations.SetupTxStopsTheTimerOnce
  intro s hfault
  refine ⟨_, (exec_eq_execOn _ _).trans (execOn_setupTx _ s hfault), ?_⟩
  split
  case isTrue => exact ⟨rfl, rfl, raiseFault_frame _ _ s⟩
  case isFalse =>
    exact ⟨⟨rfl, rfl⟩, rfl, rfl, rfl, rfl, rfl, rfl,
      (configureTx_stopOutputs_frame s).respond _ _⟩

/-! ### ENABLE and DISABLE (R137, R138) -/

/-- What ENABLE (`b` true) and DISABLE (`b` false) leave; `op` is the operation's opcode. -/
def receiveSwitched (b : Bool) (op : Byte) (s : State) : State :=
  if s.rxConfigured then respond [op] [] (rxReset (setEnabled b s))
  else raiseFault .notConfigured op s

theorem exec_enable (s : State) (hfault : s.fault = none) :
    exec .enable s = .next (receiveSwitched true (Instr.opcode .enable) s) :=
  (exec_eq_execOn _ _).trans (execOn_enable _ s hfault)

theorem exec_disable (s : State) (hfault : s.fault = none) :
    exec .disable s = .next (receiveSwitched false (Instr.opcode .disable) s) :=
  (exec_eq_execOn _ _).trans (execOn_disable _ s hfault)

theorem receiveSwitched_of_unconfigured (b : Bool) (op : Byte) (s : State)
    (hconf : s.rxConfigured = false) :
    receiveSwitched b op s = raiseFault .notConfigured op s := by
  simp [receiveSwitched, hconf]

theorem receiveSwitched_of_configured (b : Bool) (op : Byte) (s : State)
    (hconf : s.rxConfigured = true) :
    receiveSwitched b op s = respond [op] [] (rxReset (setEnabled b s)) := by
  simp [receiveSwitched, hconf]

/-- The two answers of ENABLE and DISABLE: not set up, and switched with a reset. -/
theorem receiveSwitched_answers (b : Bool) (op : Byte) (s : State) :
    if s.rxConfigured = false then
      (receiveSwitched b op s).fault = some .notConfigured ∧
        (receiveSwitched b op s).response = none ∧
        UnchangedBut [.faultReg] s (receiveSwitched b op s)
    else
      Outputs (receiveSwitched b op s) [] [op] ∧ (receiveSwitched b op s).rxEnabled = b ∧
        ReceiveReset (receiveSwitched b op s) ∧
        UnchangedBut (resetParts ++ [.enabled]) s (receiveSwitched b op s) := by
  split
  case isTrue hconf =>
    rw [receiveSwitched_of_unconfigured b op s hconf]
    exact ⟨rfl, rfl, raiseFault_frame _ _ s⟩
  case isFalse hconf =>
    rw [receiveSwitched_of_configured b op s (Bool.eq_true_of_not_eq_false hconf)]
    exact ⟨⟨rfl, rfl⟩, rfl, (rxReset_receiveReset _).respond _ _,
      (rxReset_setEnabled_frame b s).respond _ _⟩

/-- Settles O36: ENABLE switches receive on. -/
theorem enableResetsReceive : Obligations.EnableResetsReceive := by
  unfold Obligations.EnableResetsReceive
  intro s hfault
  exact ⟨_, exec_enable s hfault, receiveSwitched_answers true _ s⟩

/-- Settles O37: DISABLE switches receive off. -/
theorem disableResetsReceive : Obligations.DisableResetsReceive := by
  unfold Obligations.DisableResetsReceive
  intro s hfault
  exact ⟨_, exec_disable s hfault, receiveSwitched_answers false _ s⟩

/-! ### The receive reset, wherever it is performed (R139) -/

/-- The parts an operation that performs RX_RESET may write: the reset's own, the setup flags, and
the transmit path. -/
def resetterParts : List Part :=
  resetParts ++ [.setup, .enabled, .txFrame, .scheduler, .transmission, .carrier, .txEnable]

/-- `t` is `s` with receive reset, and nothing of the unread frame written. -/
def ResetKeepingUnread (s t : State) : Prop := ReceiveReset t ∧ UnchangedBut resetterParts s t

theorem ResetKeepingUnread.of_frame {parts : List Part} {s t : State} (hreset : ReceiveReset t)
    (hframe : UnchangedBut parts s t) (hparts : parts ⊆ resetterParts) :
    ResetKeepingUnread s t :=
  ⟨hreset, hframe.mono hparts⟩

theorem exec_setupRx_resets (s t : State) (hexec : exec .setupRx s = .next t)
    (hok : t.fault = none) : ResetKeepingUnread s t := by
  rcases (exec_leaves _ s t hexec).2 with ⟨_, rfl⟩ | ⟨_, rfl⟩
  · simp at hok
  · exact .of_frame ((rxReset_receiveReset _).respond _ _)
      ((rxReset_setEnabled_configureRx_frame true s).respond _ _) (by decide)

/-- ENABLE and DISABLE alike: on a block whose receive path is not set up they fault. -/
theorem receiveSwitched_resets {i : Instr} {b : Bool} {op : Byte} {s t : State}
    (hswitch : exec i s = .next (receiveSwitched b op s)) (hexec : exec i s = .next t)
    (hok : t.fault = none) : ResetKeepingUnread s t := by
  cases hswitch.symm.trans hexec
  have hanswer := receiveSwitched_answers b op s
  split at hanswer
  case isTrue =>
    obtain ⟨hfault, _⟩ := hanswer
    simp [hfault] at hok
  case isFalse =>
    obtain ⟨_, _, hreset, hframe⟩ := hanswer
    exact .of_frame hreset hframe (by decide)

/-- Only an accepted SEND responds 0x01. -/
theorem exec_send_resets (bytes : List Byte) (s t : State)
    (hexec : exec (.send bytes) s = .next t) (hresp : t.response = some [0x01]) :
    ResetKeepingUnread s t := by
  rcases (exec_leaves _ s t hexec).2 with ⟨_, rfl⟩ | ⟨_, _, rfl⟩ | ⟨_, _, _, rfl⟩
  · simp at hresp
  · simp at hresp
  · exact .of_frame ((sendAccept_receiveReset _ bytes s).respond _ _)
      ((sendAccept_frame _ bytes s).respond _ _) (by decide)

/-- A tick that stops the timer is the transmit stop: no other phase of a TXTICK writes the timer's
run flag. -/
theorem txTickStep_eq_txStop (c : Cfg) (s : State) (hrun : s.txTimerRun = true)
    (hstop : (txTickStep c s).txTimerRun = false) : txTickStep c s = txStop s := by
  rcases txTickStep_cases c s with ⟨hoff, _⟩ | ⟨_, _, heq⟩ | ⟨_, _, _, heq⟩ | ⟨_, _, _, _, heq⟩ |
    ⟨_, _, _, _, heq⟩ | ⟨_, _, _, _, heq⟩
  case inr.inr.inl => exact heq
  case inl => simp [hrun] at hoff
  all_goals simp [heq, hrun] at hstop

theorem exec_txTick_resets (s t : State) (hexec : exec .txTick s = .next t)
    (hrun : s.txTimerRun = true) (hstop : t.txTimerRun = false) (hconf : s.rxConfigured = true) :
    ResetKeepingUnread s t := by
  rw [exec_txTick s (exec_leaves _ s t hexec).1] at hexec
  cases hexec
  have hstopped := txStop_stopped s [0x03] []
  rw [← txTickStep_eq_txStop Config.cfg s hrun hstop, TransmitStopped, if_pos hconf] at hstopped
  obtain ⟨_, _, _, _, _, hreset, hframe⟩ := hstopped
  exact .of_frame hreset hframe (by decide)

theorem exec_resetsReceive (i : Instr) (s t : State) (hexec : exec i s = .next t)
    (hok : t.fault = none) (hresets : ResetsReceive i s t) : ResetKeepingUnread s t := by
  have hrunning : s.fault = none := (exec_leaves i s t hexec).1
  rcases hresets with rfl | rfl | rfl | ⟨⟨bytes, rfl⟩, hresp⟩ | ⟨rfl, hrun, hstop, hconf⟩
  · exact exec_setupRx_resets s t hexec hok
  · exact receiveSwitched_resets (exec_enable s hrunning) hexec hok
  · exact receiveSwitched_resets (exec_disable s hrunning) hexec hok
  · exact exec_send_resets bytes s t hexec hresp
  · exact exec_txTick_resets s t hexec hrun hstop hconf

/-- Settles O38: each of the five operations resets receive, and none may write the latched count,
the receive buffer, the published frame or data-ready. -/
theorem receiveResetLeavesTheUnreadFrame : Obligations.ReceiveResetLeavesTheUnreadFrame := by
  unfold Obligations.ReceiveResetLeavesTheUnreadFrame
  intro i s t hexec hok hresets
  obtain ⟨hreset, hframe⟩ := exec_resetsReceive i s t hexec hok hresets
  exact ⟨hreset, hframe .latch (by decide), hframe .rxBuffer (by decide),
    hframe .published (by decide), hframe .ready (by decide)⟩

end Sys2Proof.Machine
end

section
/-! The opcode an operation is decoded from, and which opcodes may stand in an input (R62). -/

namespace Sys2Proof

/-- The opcodes whose row of R62 says that they are issuable as input. -/
def issuableOpcodes : List Byte :=
  [0x01, 0x02, 0x03, 0x10, 0x11, 0x12, 0x13, 0x20, 0x21, 0x22]

theorem issuableOpcodes_subset : issuableOpcodes ⊆ knownOpcodes := by decide

theorem Instr.issuable_iff_opcode_mem (i : Instr) :
    i.issuable = true ↔ i.opcode ∈ issuableOpcodes := by
  cases i <;> simp [Instr.issuable, Instr.opcode, issuableOpcodes]

theorem exists_opcode_eq {b : Byte} (h : b ∈ knownOpcodes) : ∃ i : Instr, i.opcode = b := by
  have hall : ∀ b ∈ knownOpcodes, b ∈ [Instr.edge, .rxTick, .txTick, .setupRx, .setupTx, .enable,
      .disable, .loop, .read, .send [], .bitTimeout, .frameTimeout].map Instr.opcode := by decide
  obtain ⟨i, -, hi⟩ := List.mem_map.1 (hall b h)
  exact ⟨i, hi⟩

/-- What decodes has the opcode it was read from, and a payload that its length byte can give. -/
theorem decode_opcode {b : Byte} {rest rest' : List Byte} {i : Instr}
    (h : decode (b :: rest) = .ok (i, rest')) : i.opcode = b ∧ i.payloadFits = true := by
  by_cases hb : b ∈ knownOpcodes
  · obtain ⟨j, rfl⟩ := exists_opcode_eq hb
    cases j with
    | send bytes =>
      obtain ⟨len, payload, -, hlen, rfl⟩ :=
        decodeSend_cases rest rest' i ((decode_send rest).symm.trans h)
      exact ⟨rfl, by simp [Instr.payloadFits]; omega⟩
    | _ => cases h; exact ⟨rfl, rfl⟩
  · simp [decode_unknown b rest hb] at h

/-- An input that has a first byte fails to decode for its opcode or for the end of a SEND. -/
theorem decode_cons_error {b : Byte} {rest : List Byte} {e : DecodeError}
    (h : decode (b :: rest) = .error e) :
    e = .incompleteSend ∨ (e = .illegalOpcode b ∧ b ∉ knownOpcodes) := by
  by_cases hb : b ∈ knownOpcodes
  · obtain ⟨j, rfl⟩ := exists_opcode_eq hb
    cases j with
    | send bytes => exact .inl (decodeSend_error rest e ((decode_send rest).symm.trans h))
    | _ => cases h
  · rw [decode_unknown b rest hb] at h
    cases h
    exact .inr ⟨rfl, hb⟩

end Sys2Proof
end

section
/-! The statements about faults (spec/60_exceptions.md), settled. -/

namespace Sys2Proof.Machine

/-! ### What does not touch the fault register (R42) -/

@[simp] theorem edgeStep_fault (c : Cfg) (s : State) : (edgeStep c s).fault = s.fault :=
  edgeStep_frame c s .faultReg (by decide)

@[simp] theorem rxTickStep_fault (s : State) : (rxTickStep s).fault = s.fault :=
  rxTickStep_frame s .faultReg (by decide)

@[simp] theorem txStop_fault (s : State) : (txStop s).fault = s.fault := by
  rcases txStop_cases s with ⟨-, heq⟩ | ⟨-, heq⟩ <;> simp [heq]

@[simp] theorem txTickStep_fault (c : Cfg) (s : State) : (txTickStep c s).fault = s.fault := by
  rcases txTickStep_cases c s with ⟨-, heq⟩ | ⟨-, -, heq⟩ | ⟨-, -, -, heq⟩ | ⟨-, -, -, -, heq⟩ |
    ⟨-, -, -, -, heq⟩ | ⟨-, -, -, -, heq⟩ <;> simp [heq]

@[simp] theorem assembleBit_fault (c : Cfg) (b : Bool) (s : State) :
    (assembleBit c b s).fault = s.fault := by
  unfold assembleBit
  split <;> rfl

theorem frameBranch_fault {c : Cfg} {s t : State} (h : frameBranch c s = .ok t) :
    t.fault = s.fault := by
  rcases frameBranch_cases c s t h with ⟨-, rfl⟩ | ⟨-, -, rfl⟩ <;> simp

theorem bitBranch_fault {c : Cfg} {s t : State} (h : bitBranch c s = .ok t) :
    t.fault = s.fault := by
  rcases bitBranch_cases c s t h with ⟨-, rfl⟩ | ⟨-, rfl | ⟨-, rfl⟩ | ⟨-, -, rfl⟩⟩ <;> simp

/-! ### The fault of an operation (R151) -/

theorem faultOf_notConfigured_iff (s : State) (i : Instr) :
    faultOf s i = some .notConfigured ↔
      ((i = .enable ∨ i = .disable ∨ i = .loop ∨ i = .read) ∧ s.rxConfigured = false) ∨
        ((∃ bytes, i = .send bytes) ∧ s.txConfigured = false) := by
  cases i <;> simp [faultOf]

theorem faultOf_setupRepeated_iff (s : State) (i : Instr) :
    faultOf s i = some .setupRepeated ↔
      (i = .setupRx ∧ s.rxConfigured = true) ∨ (i = .setupTx ∧ s.txConfigured = true) := by
  cases i <;> simp [faultOf]

theorem faultOf_ne_illegalOp (s : State) (i : Instr) : faultOf s i ≠ some .illegalOp := by
  cases i <;> simp [faultOf]

/-- `t` is what an operation leaves of `s` as far as faults go: none, or `raiseFault` of the code
that the table of R151 gives. -/
def FaultsAsTabled (i : Instr) (s t : State) : Prop :=
  (faultOf s i = none ∧ t.fault = none) ∨
    ∃ code, faultOf s i = some code ∧ t = raiseFault code i.opcode s

theorem Leaves.faultsAsTabled {c : Cfg} {i : Instr} {s t : State} (hrunning : s.fault = none)
    (h : Leaves c s t i) : FaultsAsTabled i s t := by
  cases i with
  | edge | rxTick | txTick | bitTimeout | frameTimeout =>
    obtain rfl := h
    exact .inl ⟨rfl, by simp [hrunning]⟩
  | setupRx | setupTx =>
    obtain ⟨hconf, rfl⟩ | ⟨hconf, rfl⟩ := h
    · exact .inr ⟨_, by simp [faultOf, hconf], rfl⟩
    · exact .inl ⟨by simp [faultOf, hconf], hrunning⟩
  | enable | disable =>
    obtain ⟨hconf, rfl⟩ | ⟨hconf, rfl⟩ := h
    · exact .inl ⟨by simp [faultOf, hconf], hrunning⟩
    · exact .inr ⟨_, by simp [faultOf, hconf], rfl⟩
  | loop =>
    obtain ⟨hconf, rfl⟩ | ⟨hconf, s1, s2, hframe, hbit, rfl⟩ := h
    · exact .inr ⟨_, by simp [faultOf, hconf], rfl⟩
    · exact .inl ⟨by simp [faultOf, hconf],
        ((bitBranch_fault hbit).trans (frameBranch_fault hframe)).trans hrunning⟩
  | read =>
    obtain ⟨hconf, rfl⟩ | ⟨hconf, -, rfl⟩ | ⟨hconf, -, rfl⟩ := h
    · exact .inr ⟨_, by simp [faultOf, hconf], rfl⟩
    · exact .inl ⟨by simp [faultOf, hconf], hrunning⟩
    · exact .inl ⟨by simp [faultOf, hconf], hrunning⟩
  | send bytes =>
    obtain ⟨hconf, rfl⟩ | ⟨hconf, -, rfl⟩ | ⟨hconf, -, -, rfl⟩ := h
    · exact .inr ⟨_, by simp [faultOf, hconf], rfl⟩
    · exact .inl ⟨by simp [faultOf, hconf], hrunning⟩
    · exact .inl ⟨by simp [faultOf, hconf], hrunning⟩

theorem exec_faultsAsTabled {i : Instr} {s t : State} (h : exec i s = .next t) :
    FaultsAsTabled i s t :=
  have ⟨hrunning, hleaves⟩ := exec_leaves i s t h
  hleaves.faultsAsTabled hrunning

theorem exec_fault {i : Instr} {s t : State} (h : exec i s = .next t) :
    t.fault = faultOf s i := by
  rcases exec_faultsAsTabled h with ⟨hnone, hok⟩ | ⟨code, hcode, rfl⟩
  · exact hok.trans hnone.symm
  · exact hcode.symm

theorem exec_raised {i : Instr} {s t : State} (h : exec i s = .next t) (hfault : t.fault ≠ none) :
    ∃ code, t = raiseFault code i.opcode s := by
  rcases exec_faultsAsTabled h with ⟨-, hok⟩ | ⟨code, -, heq⟩
  · exact absurd hok hfault
  · exact ⟨code, heq⟩

/-! ### The fault of a step (R150, R151) -/

/-- A faulted block refuses every step. -/
theorem step_stuck {s : State} {code : FaultCode} (h : s.fault = some code) :
    step s = .refused (.stuckAfterFault code) := by
  simp [step, fetch, h]

theorem step_of_wellFormed {s : State} {i : Instr} {rest : List Byte} (hrunning : s.fault = none)
    (hdec : decode s.input = .ok (i, rest)) (hwf : i.wellFormed = true) :
    step s = exec i { s with input := rest } := by
  simp [step, fetch, hrunning, hdec, hwf]

theorem step_of_illFormed {s : State} {i : Instr} {rest : List Byte} (hrunning : s.fault = none)
    (hdec : decode s.input = .ok (i, rest)) (hwf : i.wellFormed = false) :
    step s = .next (raiseFault .illegalOp i.opcode { s with input := rest }) := by
  simp [step, fetch, hrunning, hdec, hwf]

theorem step_of_illegalOpcode {s : State} {b : Byte} (hrunning : s.fault = none)
    (hdec : decode s.input = .error (.illegalOpcode b)) :
    step s = .next (raiseFault .illegalOp b { s with input := s.input.tail }) := by
  simp [step, fetch, hrunning, hdec]

theorem step_of_incompleteSend {s : State} (hrunning : s.fault = none)
    (hdec : decode s.input = .error .incompleteSend) :
    step s = .refused .incompleteInput := by
  simp [step, fetch, hrunning, hdec]

theorem takeInput_frame (s : State) (rest : List Byte) :
    UnchangedBut [.input] s { s with input := rest } := by
  intro p hp
  cases p
  case input => simp at hp
  all_goals simp [samePart, sameWords]

theorem raiseFault_takeInput_frame (code : FaultCode) (op : Byte) (s : State) (rest : List Byte) :
    UnchangedBut [.faultReg, .input] s (raiseFault code op { s with input := rest }) :=
  ((takeInput_frame s rest).mono (by decide)).trans ((raiseFault_frame code op _).mono (by decide))

/-- A step that leaves a fault has raised it, on the state with the operation's bytes taken. -/
theorem step_raised {s t : State} (h : step s = .next t) (hfault : t.fault ≠ none) :
    ∃ code op rest, t = raiseFault code op { s with input := rest } := by
  obtain ⟨-, ⟨i, rest, -, -, hexec⟩ | ⟨op, rest, heq⟩⟩ := step_cases s t h
  · obtain ⟨code, heq⟩ := exec_raised hexec hfault
    exact ⟨code, _, rest, heq⟩
  · exact ⟨_, op, rest, heq⟩

/-- A step by its first input byte `b`: an issuable one is the opcode of the operation run, any
other raises ILLEGAL_OP. -/
theorem step_cases_of_cons {s t : State} {b : Byte} {rest : List Byte} (h : step s = .next t)
    (hin : s.input = b :: rest) :
    (b ∈ issuableOpcodes ∧
        ∃ i rest', i.opcode = b ∧ exec i { s with input := rest' } = .next t) ∨
      (b ∉ issuableOpcodes ∧
        ∃ rest', t = raiseFault .illegalOp b { s with input := rest' }) := by
  have hrunning : s.fault = none := (step_cases s t h).1
  cases hdec : decode s.input with
  | error e =>
    rcases decode_cons_error (hin ▸ hdec) with rfl | ⟨rfl, hunknown⟩
    · simp [step_of_incompleteSend hrunning hdec] at h
    · cases (step_of_illegalOpcode hrunning hdec).symm.trans h
      exact .inr ⟨fun hmem => hunknown (issuableOpcodes_subset hmem), _, rfl⟩
  | ok p =>
    obtain ⟨i, rest'⟩ := p
    obtain ⟨rfl, hfits⟩ := decode_opcode (hin ▸ hdec)
    have hwf : i.wellFormed = i.issuable := by simp [Instr.wellFormed, hfits]
    rw [← i.issuable_iff_opcode_mem]
    cases hissue : i.issuable with
    | true =>
      exact .inl ⟨rfl, i, rest', rfl,
        (step_of_wellFormed hrunning hdec (hwf.trans hissue)).symm.trans h⟩
    | false =>
      cases (step_of_illFormed hrunning hdec (hwf.trans hissue)).symm.trans h
      exact .inr ⟨Bool.false_ne_true, rest', rfl⟩

/-- Settles O8: a fault that is left was raised by `raiseFault`, whose frame is known, and the
guard and the fetch refuse a faulted state. -/
theorem faultIsRecordedAndSticks : Obligations.FaultIsRecordedAndSticks := by
  unfold Obligations.FaultIsRecordedAndSticks
  refine ⟨fun i s t hexec hfault => ?_, fun s t hstep hfault => ?_,
    fun i s code hstuck => (exec_eq_execOn i s).trans (execOn_stuck _ i s code hstuck),
    fun s code hstuck => step_stuck hstuck⟩
  · obtain ⟨code, rfl⟩ := exec_raised hexec hfault
    exact ⟨rfl, raiseFault_frame _ _ s⟩
  · obtain ⟨code, op, rest, rfl⟩ := step_raised hstep hfault
    exact ⟨rfl, raiseFault_takeInput_frame _ _ s rest⟩

/-- Settles O9: an operation leaves the fault that `faultOf` tables, and a step the one of the
operation it runs, or ILLEGAL_OP where its first byte is not issuable. -/
theorem faultsAreThoseOfTheTable : Obligations.FaultsAreThoseOfTheTable := by
  unfold Obligations.FaultsAreThoseOfTheTable
  refine ⟨⟨rfl, rfl, rfl⟩, fun i s t hexec => ?_, fun s t b rest hstep hin => ?_⟩
  · rw [exec_fault hexec]
    refine ⟨faultOf_notConfigured_iff s i, faultOf_setupRepeated_iff s i,
      faultOf_ne_illegalOp s i, fun hfault => ?_⟩
    obtain ⟨code, rfl⟩ := exec_raised hexec (exec_fault hexec ▸ hfault)
    rfl
  · rcases step_cases_of_cons hstep hin with ⟨hmem, i, rest', rfl, hexec⟩ | ⟨hmem, rest', rfl⟩
    · refine ⟨iff_of_false ?_ (not_not_intro hmem), fun hfault => ?_⟩
      · exact exec_fault hexec ▸ faultOf_ne_illegalOp _ i
      · obtain ⟨code, rfl⟩ := exec_raised hexec hfault
        rfl
    · exact ⟨iff_of_true rfl hmem, fun _ => rfl⟩

end Sys2Proof.Machine
end

section
/-! The round trip of the encoding (spec/30_encoding.md), settled. -/

namespace Sys2Proof

/-- Only SEND has operands, so the encoding of every other operation is its opcode. -/
theorem encode_plain (i : Instr) (h : ∀ bytes, i ≠ .send bytes) : encode i = [i.opcode] := by
  cases i with
  | send bytes => exact absurd rfl (h bytes)
  | _ => rfl

theorem decode_encode (i : Instr) (rest : List Byte) (hfits : i.payloadFits = true) :
    decode (encode i ++ rest) = .ok (i, rest) := by
  by_cases hsend : ∃ bytes, i = .send bytes
  · obtain ⟨bytes, rfl⟩ := hsend
    exact (decode_send _).trans (decodeSend_payload bytes rest (of_decide_eq_true hfits))
  · rw [encode_plain i (not_exists.1 hsend)]
    exact decode_plain i rest (not_exists.1 hsend)

/-- Settles O4: a one-byte operation is read whole from its opcode, and a SEND takes from the bytes
behind it as many as its length byte says, which is its own length for a payload that fits. -/
theorem decodeOfEncodeIsTheOperation : Obligations.DecodeOfEncodeIsTheOperation := by
  unfold Obligations.DecodeOfEncodeIsTheOperation
  exact decode_encode

theorem eq_encode_of_decode {bytes rest : List Byte} {i : Instr}
    (h : decode bytes = .ok (i, rest)) : bytes = encode i ++ rest := by
  cases bytes with
  | nil => cases h
  | cons b tail =>
    obtain ⟨rfl, -⟩ := decode_opcode h
    by_cases hsend : ∃ bytes, i = .send bytes
    · obtain ⟨bytes, rfl⟩ := hsend
      obtain ⟨len, payload, rfl, hlen, heq⟩ :=
        decodeSend_cases tail rest _ ((decode_send tail).symm.trans h)
      cases heq
      simp [encode, Instr.operandBytes, hlen]
    · cases (decode_plain i tail (not_exists.1 hsend)).symm.trans h
      rw [encode_plain i (not_exists.1 hsend)]
      rfl

/-- Settles O5: the first byte is the opcode of what it decodes to, and the length byte of a SEND is
the length of the payload it was read with. -/
theorem decodedBytesAreTheEncoding : Obligations.DecodedBytesAreTheEncoding := by
  unfold Obligations.DecodedBytesAreTheEncoding
  intro bytes rest i h
  refine ⟨?_, eq_encode_of_decode h⟩
  cases bytes with
  | nil => cases h
  | cons b tail => exact (decode_opcode h).2

end Sys2Proof
end

section
/-! The statements about one step's fetch (spec/30_encoding.md section 5, spec/60_exceptions.md),
settled. -/

namespace Sys2Proof.Machine

/-- A byte that is not issuable raises ILLEGAL_OP, whether it is no opcode or one of the two trace
codes (R62, R71). -/
theorem step_of_not_issuable {s : State} {b : Byte} {rest : List Byte} (hrunning : s.fault = none)
    (hin : s.input = b :: rest) (hb : b ∉ issuableOpcodes) :
    step s = .next (raiseFault .illegalOp b { s with input := rest }) := by
  by_cases hknown : b ∈ knownOpcodes
  · obtain ⟨i, rfl⟩ := exists_opcode_eq hknown
    have hissue : i.issuable = false := by
      rwa [← Bool.not_eq_true, i.issuable_iff_opcode_mem]
    have hplain : ∀ bytes, i ≠ .send bytes := by
      rintro bytes rfl
      cases hissue
    exact step_of_illFormed hrunning (hin ▸ decode_plain i rest hplain)
      (by rw [Instr.wellFormed, hissue, Bool.and_false])
  · rw [step_of_illegalOpcode hrunning (hin ▸ decode_unknown b rest hknown), hin]
    rfl

/-- Settles O6: an illegal byte's whole step is `raiseFault`, whose frame is known, and both cut-off
SENDs fail to decode as incomplete. -/
theorem illegalInputIsRefusedOrFaults : Obligations.IllegalInputIsRefusedOrFaults := by
  unfold Obligations.IllegalInputIsRefusedOrFaults
  refine ⟨fun s b rest hrunning hin hb => ?_, fun s hrunning hin => ?_,
    fun s len payload hrunning hin hshort => ?_⟩
  · exact ⟨_, step_of_not_issuable hrunning hin hb, rfl, rfl, rfl, rfl,
      raiseFault_takeInput_frame _ _ s rest⟩
  · exact step_of_incompleteSend hrunning (hin ▸ rfl)
  · refine step_of_incompleteSend hrunning ?_
    rw [hin, decode_send, decodeSend, if_pos hshort]

/-- Settles O7: the fetch of a well-formed operation in a running block. -/
theorem stepRunsTheDecodedOperation : Obligations.StepRunsTheDecodedOperation := by
  unfold Obligations.StepRunsTheDecodedOperation
  intro s i rest hrunning hdec hwf
  exact step_of_wellFormed hrunning hdec hwf

/-- An operation to which the table of R151 gives a fault raises it and does nothing else. -/
theorem exec_of_faultOf {i : Instr} {s : State} {code : FaultCode} (hrunning : s.fault = none)
    (h : faultOf s i = some code) : exec i s = .next (raiseFault code i.opcode s) := by
  rw [exec_eq_execOn]
  cases i with
  | edge | rxTick | txTick | bitTimeout | frameTimeout => cases h
  | setupRx =>
    obtain ⟨hconf, rfl⟩ : s.rxConfigured = true ∧ _ := by simpa [faultOf] using h
    rw [execOn_setupRx _ s hrunning, if_pos hconf]
  | setupTx =>
    obtain ⟨hconf, rfl⟩ : s.txConfigured = true ∧ _ := by simpa [faultOf] using h
    rw [execOn_setupTx _ s hrunning, if_pos hconf]
  | enable =>
    obtain ⟨hconf, rfl⟩ : s.rxConfigured = false ∧ _ := by simpa [faultOf] using h
    simp [execOn_enable _ s hrunning, hconf]
  | disable =>
    obtain ⟨hconf, rfl⟩ : s.rxConfigured = false ∧ _ := by simpa [faultOf] using h
    simp [execOn_disable _ s hrunning, hconf]
  | loop =>
    obtain ⟨hconf, rfl⟩ : s.rxConfigured = false ∧ _ := by simpa [faultOf] using h
    exact execOn_loop_unconfigured _ s hrunning hconf
  | read =>
    obtain ⟨hconf, rfl⟩ : s.rxConfigured = false ∧ _ := by simpa [faultOf] using h
    exact execOn_read_unconfigured _ s hrunning hconf
  | send bytes =>
    obtain ⟨hconf, rfl⟩ : s.txConfigured = false ∧ _ := by simpa [faultOf] using h
    simp [execOn_send _ bytes s hrunning, sendCommand, hconf]

/-- Settles O10: the tabled fault is the whole operation. -/
theorem commandsBeforeSetupRecordTheirFault :
    Obligations.CommandsBeforeSetupRecordTheirFault := by
  unfold Obligations.CommandsBeforeSetupRecordTheirFault
  intro i s code hrunning hfault
  exact ⟨_, exec_of_faultOf hrunning hfault, rfl, rfl, rfl, raiseFault_frame _ _ s⟩

end Sys2Proof.Machine
end

section
/-! The parts of the block's state that each operation may write, said once for claims over all
operations (spec/20_memory.md section 5). -/

namespace Sys2Proof.Machine

/-- The parts LOOP may write. -/
def loopParts : List Part := [.bitFlag, .rxBuffer] ++ frameCloseParts

theorem assembleBit_frame (c : Cfg) (b : Bool) (s : State) :
    UnchangedBut [.perFrame, .rxBuffer] s (assembleBit c b s) := by
  unfold assembleBit
  split
  · exact (parityBit_frame c b s).mono (by decide)
  · exact dataBit_frame c b s

theorem frameBranch_frame {c : Cfg} {s t : State} (h : frameBranch c s = .ok t) :
    UnchangedBut loopParts s t := by
  rcases frameBranch_cases c s t h with ⟨-, rfl⟩ | ⟨-, -, rfl⟩
  · exact unchangedBut_refl _ _
  · exact (closed_frame c s).mono (by decide)

theorem bitBranch_frame {c : Cfg} {s t : State} (h : bitBranch c s = .ok t) :
    UnchangedBut loopParts s t := by
  have hclear : UnchangedBut loopParts s (clearBit s) := (clearBit_frame s).mono (by decide)
  rcases bitBranch_cases c s t h with ⟨-, rfl⟩ | ⟨-, rfl | ⟨-, rfl⟩ | ⟨-, -, rfl⟩⟩
  · exact unchangedBut_refl _ _
  · exact hclear
  · exact hclear.trans ((loadThreshold_frame _ _ _).mono (by decide))
  · exact hclear.trans ((assembleBit_frame _ _ _).mono (by decide))

/-- The parts a TXTICK may write where it does not reset receive. -/
def txTickParts : List Part := [.enabled, .scheduler, .transmission, .carrier, .txEnable]

/-- A TXTICK that is not the transmit stop of a block with a receive path. -/
theorem txTickStep_frame (c : Cfg) (s : State)
    (h : ¬(s.txTimerRun = true ∧ (txTickStep c s).txTimerRun = false ∧ s.rxConfigured = true)) :
    UnchangedBut txTickParts s (txTickStep c s) := by
  rcases txTickStep_cases c s with ⟨-, heq⟩ | ⟨-, -, heq⟩ | ⟨hrun, -, -, heq⟩ |
    ⟨-, -, -, -, heq⟩ | ⟨-, -, -, -, heq⟩ | ⟨-, -, -, -, heq⟩ <;> rw [heq]
  · exact unchangedBut_refl _ s
  · exact (countdown_frame s).mono (by decide)
  · rcases txStop_cases s with ⟨-, hstop⟩ | ⟨hconf, hstop⟩
    · rw [hstop]
      exact (stopOutputs_frame s).mono (by decide)
    · exact absurd ⟨hrun, by rw [heq, hstop]; rfl, hconf⟩ h
  · exact (loadStart_frame c s).mono (by decide)
  · exact (loadData_frame c s).mono (by decide)
  · exact (loadPause_frame c s).mono (by decide)

/-- The parts an operation may write, apart from the fault it may raise and from what RX_RESET
writes where it performs that (`ResetsReceive`). -/
def ownParts : Instr → List Part
  | .edge => [.capture]
  | .rxTick => rxTickParts
  | .txTick => txTickParts
  | .setupRx => [.setup, .enabled]
  | .setupTx => setupTxParts
  | .enable | .disable => [.enabled]
  | .loop => loopParts
  | .read => [.ready]
  | .send _ => [.enabled, .txFrame, .scheduler, .transmission, .txEnable]
  | .bitTimeout => [.capture, .latch, .bitFlag]
  | .frameTimeout => [.capture, .streamFlag]

/-- An operation on its way from `s` to `t` resets receive and writes its own parts besides. -/
def ResetsAndWrites (i : Instr) (s t : State) : Prop :=
  ResetsReceive i s t ∧ ReceiveReset t ∧ UnchangedBut (resetParts ++ ownParts i) s t

/-- An operation on its way from `s` to `t` writes its own parts, or raises a fault. -/
def OnlyWrites (i : Instr) (s t : State) : Prop := UnchangedBut (.faultReg :: ownParts i) s t

theorem OnlyWrites.of_frame {i : Instr} {parts : List Part} {s t : State}
    (hparts : parts ⊆ ownParts i) (hframe : UnchangedBut parts s t) : OnlyWrites i s t :=
  hframe.mono (List.subset_cons_of_subset _ hparts)

theorem OnlyWrites.of_raiseFault (i : Instr) (code : FaultCode) (op : Byte) (s : State) :
    OnlyWrites i s (raiseFault code op s) :=
  (raiseFault_frame code op s).mono (by simp)

theorem Leaves.writes {c : Cfg} {i : Instr} {s t : State} (h : Leaves c s t i) :
    ResetsAndWrites i s t ∨ OnlyWrites i s t := by
  cases i with
  | edge =>
    obtain rfl := h
    exact .inr (.of_frame (List.Subset.refl _) ((edgeStep_frame c s).respond _ _))
  | rxTick =>
    obtain rfl := h
    exact .inr (.of_frame (List.Subset.refl _) ((rxTickStep_frame s).respond _ _))
  | bitTimeout =>
    obtain rfl := h
    exact .inr (.of_frame (List.Subset.refl _) ((bitTimeout_frame s).respond _ _))
  | frameTimeout =>
    obtain rfl := h
    exact .inr (.of_frame (List.Subset.refl _) ((frameTimeout_frame s).respond _ _))
  | txTick =>
    obtain rfl := h
    by_cases hstop : s.txTimerRun = true ∧ (txTickStep c s).txTimerRun = false ∧
        s.rxConfigured = true
    · obtain ⟨hrun, hoff, hconf⟩ := hstop
      have hstopped := txStop_stopped s [Instr.opcode .txTick] []
      rw [← txTickStep_eq_txStop c s hrun hoff, TransmitStopped, if_pos hconf] at hstopped
      obtain ⟨-, -, -, -, -, hreset, hframe⟩ := hstopped
      exact .inl ⟨.inr (.inr (.inr (.inr ⟨rfl, hrun, hoff, hconf⟩))), hreset,
        hframe.mono (by decide)⟩
    · exact .inr (.of_frame (List.Subset.refl _) ((txTickStep_frame c s hstop).respond _ _))
  | setupRx =>
    obtain ⟨-, rfl⟩ | ⟨-, rfl⟩ := h
    · exact .inr (.of_raiseFault _ _ _ s)
    · exact .inl ⟨.inl rfl, (rxReset_receiveReset _).respond _ _,
        ((rxReset_setEnabled_configureRx_frame true s).mono (by decide)).respond _ _⟩
  | setupTx =>
    obtain ⟨-, rfl⟩ | ⟨-, rfl⟩ := h
    · exact .inr (.of_raiseFault _ _ _ s)
    · exact .inr (.of_frame (List.Subset.refl _)
        ((configureTx_stopOutputs_frame s).respond _ _))
  | enable =>
    obtain ⟨-, rfl⟩ | ⟨-, rfl⟩ := h
    · exact .inl ⟨.inr (.inl rfl), (rxReset_receiveReset _).respond _ _,
        (rxReset_setEnabled_frame true s).respond _ _⟩
    · exact .inr (.of_raiseFault _ _ _ s)
  | disable =>
    obtain ⟨-, rfl⟩ | ⟨-, rfl⟩ := h
    · exact .inl ⟨.inr (.inr (.inl rfl)), (rxReset_receiveReset _).respond _ _,
        (rxReset_setEnabled_frame false s).respond _ _⟩
    · exact .inr (.of_raiseFault _ _ _ s)
  | loop =>
    obtain ⟨-, rfl⟩ | ⟨-, s1, s2, hframe, hbit, rfl⟩ := h
    · exact .inr (.of_raiseFault _ _ _ s)
    · exact .inr (.of_frame (List.Subset.refl _)
        (((frameBranch_frame hframe).trans (bitBranch_frame hbit)).respond _ _))
  | read =>
    obtain ⟨-, rfl⟩ | ⟨-, -, rfl⟩ | ⟨-, -, rfl⟩ := h
    · exact .inr (.of_raiseFault _ _ _ s)
    · exact .inr (.of_frame (List.Subset.refl _) ((clearReady_frame s).respond _ _))
    · exact .inr ((unchangedBut_refl _ s).respond _ _)
  | send bytes =>
    obtain ⟨-, rfl⟩ | ⟨-, -, rfl⟩ | ⟨-, -, -, rfl⟩ := h
    · exact .inr (.of_raiseFault _ _ _ s)
    · exact .inr ((unchangedBut_refl _ s).respond _ _)
    · exact .inl ⟨.inr (.inr (.inr (.inl ⟨⟨bytes, rfl⟩, rfl⟩))),
        (sendAccept_receiveReset c bytes s).respond _ _, (sendAccept_frame c bytes s).respond _ _⟩

theorem exec_writes {i : Instr} {s t : State} (h : exec i s = .next t) :
    ResetsAndWrites i s t ∨ OnlyWrites i s t :=
  (exec_leaves i s t h).2.writes

/-- A part that RX_RESET does not touch is written by its own writers alone. -/
theorem mem_ownParts_of_changed {i : Instr} {s t : State} {p : Part} (h : exec i s = .next t)
    (hp : p ∉ .faultReg :: resetParts) (hchanged : ¬samePart s t p) : p ∈ ownParts i := by
  rw [List.mem_cons, not_or] at hp
  by_contra hown
  rcases exec_writes h with ⟨-, -, hframe⟩ | hframe
  · exact hchanged (hframe p (by simp [hp.2, hown]))
  · exact hchanged (hframe p (by simp [hp.1, hown]))

/-- A part that RX_RESET does not touch reads the same after an operation that is no writer of
it. -/
theorem exec_keeps {i : Instr} {s t : State} {p : Part} (h : exec i s = .next t)
    (hp : p ∉ .faultReg :: resetParts) (hown : p ∉ ownParts i) : samePart s t p :=
  not_not.1 fun hchanged => hown (mem_ownParts_of_changed h hp hchanged)

end Sys2Proof.Machine
end

section
/-! The receive timers in step (spec/41_rx_capture.md), settled. -/

namespace Sys2Proof.Machine

/-- The operations that write the capture state without a receive reset. -/
theorem mem_ownParts_capture {i : Instr} (h : .capture ∈ ownParts i) :
    i = .edge ∨ i = .rxTick ∨ i = .bitTimeout ∨ i = .frameTimeout := by
  cases i <;>
    simp_all [ownParts, txTickParts, setupTxParts, loopParts, frameCloseParts]

theorem TimersInStep.of_samePart {c : Cfg} {s t : State} (h : TimersInStep c s)
    (hsame : samePart s t .capture) : TimersInStep c t := by
  obtain ⟨-, hbtoRun, hbtoCnt, hftoRun, hftoCnt⟩ := hsame
  rw [TimersInStep, hbtoRun, hbtoCnt, hftoRun, hftoCnt]
  exact h

/-- A stopped bit timer is in step with any frame timer. -/
theorem TimersInStep.of_stopped {c : Cfg} {s : State} (h : s.btoRun = false) :
    TimersInStep c s := by
  simp [TimersInStep, h]

/-- The frame timer is the later one: it never expires while the bit timer runs. -/
theorem TimersInStep.frameTimer_quiet {c : Cfg} (hwf : c.WF) {s : State} (h : TimersInStep c s)
    (hrun : s.btoRun = true) : timerFires s.ftoRun s.ftoCnt = false := by
  obtain ⟨-, -, -, -, -, -, -, -, hlt, -⟩ := hwf
  obtain ⟨hfto, hpos, hdiff⟩ := h hrun
  rw [← Bool.not_eq_true, timerFires_iff _ _ (by omega)]
  omega

theorem timersInStep_edgeStep {c : Cfg} (hwf : c.WF) {s : State} (h : TimersInStep c s) :
    TimersInStep c (edgeStep c s) := by
  obtain ⟨-, -, -, -, -, -, -, hpos, -, -⟩ := hwf
  cases henabled : s.rxEnabled with
  | false => rwa [edgeStep_of_disabled c s henabled]
  | true =>
    obtain ⟨-, hbtoCnt, -, hftoCnt, hftoRun⟩ := edgeStep_of_enabled c s henabled
    intro _
    rw [hbtoCnt, hftoCnt]
    exact ⟨hftoRun, hpos, Nat.add_comm _ _⟩

/-- Both timers lose the same tick, and the bit timer that expires stops. -/
theorem timersInStep_rxTickStep {c : Cfg} (hwf : c.WF) {s : State} (h : TimersInStep c s) :
    TimersInStep c (rxTickStep s) := by
  obtain ⟨hbtoCnt, hftoCnt⟩ := rxTickStep_counts s
  have hbit := rxTickStep_bitWindow s
  cases hfires : timerFires s.btoRun s.btoCnt with
  | true =>
    rw [if_pos hfires] at hbit
    obtain ⟨-, -, -, hstopped⟩ := hbit
    exact .of_stopped hstopped
  | false =>
    rw [if_neg (by simp [hfires])] at hbit
    obtain ⟨-, -, -, hbtoRun⟩ := hbit
    intro hrun
    rw [hbtoRun] at hrun
    obtain ⟨hfto, hpos, hdiff⟩ := h hrun
    have hframe := rxTickStep_frameEnd s
    rw [h.frameTimer_quiet hwf hrun, if_neg Bool.false_ne_true] at hframe
    obtain ⟨-, hftoRun⟩ := hframe
    have hleft : s.btoCnt ≠ 1 := fun hlast => by
      simp [(timerFires_iff _ _ fun _ => hpos).2 ⟨hrun, hlast⟩] at hfires
    obtain ⟨-, -, -, -, -, -, -, -, hlt, -⟩ := hwf
    rw [hftoRun, hbtoCnt, hftoCnt, hrun, hfto]
    exact ⟨rfl, by simp [timerCount]; omega, by simp [timerCount]; omega⟩

/-- FRAME_TIMEOUT on its own would stop the frame timer under the bit timer; it is no input. -/
theorem exec_keeps_timersInStep {i : Instr} {s t : State} (h : exec i s = .next t)
    (hissue : i.issuable = true) (hs : TimersInStep Config.cfg s) :
    TimersInStep Config.cfg t := by
  rcases exec_writes h with ⟨-, ⟨-, hstopped, -⟩, -⟩ | hframe
  · exact .of_stopped hstopped
  · by_cases hown : .capture ∈ ownParts i
    · rcases mem_ownParts_capture hown with rfl | rfl | rfl | rfl
      · obtain rfl := (exec_leaves _ s t h).2
        exact timersInStep_edgeStep Config_wf hs
      · obtain rfl := (exec_leaves _ s t h).2
        exact timersInStep_rxTickStep Config_wf hs
      · cases hissue
      · cases hissue
    · exact hs.of_samePart (hframe .capture (by simp [hown]))

theorem issuable_of_wellFormed {i : Instr} (h : i.wellFormed = true) : i.issuable = true :=
  (Bool.and_eq_true _ _ ▸ h).2

/-- Settles O47: the fetch and a fault leave the timers alone, every operation that an input can
hold keeps them in step, and then the frame timer is at least T_FRAME - T_BIT ticks behind. -/
theorem timersNeverExpireTogether : Obligations.TimersNeverExpireTogether := by
  unfold Obligations.TimersNeverExpireTogether
  refine ⟨fun s t hs hstep => ?_, fun s hs ⟨hbit, hframe⟩ => ?_⟩
  · obtain ⟨-, ⟨i, rest, -, hwf, hexec⟩ | ⟨op, rest, rfl⟩⟩ := step_cases s t hstep
    · exact exec_keeps_timersInStep hexec (issuable_of_wellFormed hwf) hs
    · exact hs
  · have hrun : s.btoRun = true := (Bool.and_eq_true _ _ ▸ hbit).1
    rw [hs.frameTimer_quiet Config_wf hrun] at hframe
    cases hframe

end Sys2Proof.Machine
end

section
/-! The invariant of R43 (spec/10_state.md section 4): each operation's parts keep it. -/

namespace Sys2Proof.Machine

/-! ### Updates that keep every clause -/

variable {c : Cfg} {s : State}

theorem Inv.respond (h : Inv c s) (ops bytes : List Byte) : Inv c (respond ops bytes s) :=
  { h with }

theorem Inv.raiseFault (h : Inv c s) (code : FaultCode) (op : Byte) :
    Inv c (raiseFault code op s) :=
  { h with }

theorem Inv.takeInput (h : Inv c s) (rest : List Byte) : Inv c { s with input := rest } :=
  { h with }

theorem Inv.configureRx (h : Inv c s) : Inv c (configureRx s) := { h with }

theorem Inv.configureTx (h : Inv c s) : Inv c (configureTx s) := { h with }

theorem Inv.clearBit (h : Inv c s) : Inv c (clearBit s) := { h with }

theorem Inv.clearStream (h : Inv c s) : Inv c (clearStream s) := { h with }

theorem Inv.clearReady (h : Inv c s) : Inv c (clearReady s) := { h with }

/-! ### Receive capture -/

theorem Inv.edgeStep (h : Inv c s) (hwf : c.WF) : Inv c (edgeStep c s) := by
  obtain ⟨-, -, -, -, -, -, -, hpos, hlt, -⟩ := hwf
  unfold Machine.edgeStep
  split
  case isTrue henabled =>
    exact { h with
      btoRange := fun _ => ⟨hpos, le_refl _⟩
      ftoRange := fun _ => ⟨by dsimp only; omega, le_refl _⟩
      disabledQuiet := fun hoff => absurd (henabled.symm.trans hoff) nofun }
  case isFalse => exact h

theorem Inv.bitTimeout (h : Inv c s) : Inv c (bitTimeout s) :=
  { h with
    btoRange := nofun
    disabledQuiet := fun hoff => ⟨rfl, (h.disabledQuiet hoff).2.1, rfl⟩ }

theorem Inv.frameTimeout (h : Inv c s) : Inv c (frameTimeout s) :=
  { h with
    ftoRange := nofun
    disabledQuiet := fun hoff => ⟨(h.disabledQuiet hoff).1, rfl, (h.disabledQuiet hoff).2.2⟩ }

/-- A running timer that does not expire on a tick has another one left. -/
theorem timerCount_range {run : Bool} {cnt n : Nat} (h : run = true → 1 ≤ cnt ∧ cnt ≤ n)
    (hquiet : ¬timerFires run cnt = true) :
    run = true → 1 ≤ timerCount run cnt ∧ timerCount run cnt ≤ n := by
  rintro rfl
  obtain ⟨-, hle⟩ := h rfl
  simp only [timerFires, timerCount, Bool.true_and, beq_iff_eq, if_true] at hquiet ⊢
  omega

/-- A timer that does not expire is in range after the tick, and one that does is stopped by its
handler. -/
theorem Inv.rxTickStep (h : Inv c s) : Inv c (rxTickStep s) := by
  have hquiet := h.disabledQuiet
  unfold Machine.rxTickStep
  split <;> split
  · exact { h with
      btoRange := nofun
      ftoRange := nofun
      disabledQuiet := fun _ => ⟨rfl, rfl, rfl⟩ }
  · exact { h with
      btoRange := nofun
      ftoRange := timerCount_range h.ftoRange ‹_›
      disabledQuiet := fun hoff => ⟨rfl, (hquiet hoff).2.1, rfl⟩ }
  · exact { h with
      btoRange := timerCount_range h.btoRange ‹_›
      ftoRange := nofun
      disabledQuiet := fun hoff => ⟨(hquiet hoff).1, rfl, (hquiet hoff).2.2⟩ }
  · exact { h with
      btoRange := timerCount_range h.btoRange ‹_›
      ftoRange := timerCount_range h.ftoRange ‹_› }

/-! ### Receive decode -/

theorem Inv.frameReset (h : Inv c s) : Inv c (frameReset s) :=
  { h with
    bitIdxRange := Nat.zero_le _
    wordIdxRange := Nat.zero_le _
    startClean := fun _ => ⟨rfl, rfl, rfl⟩ }

/-- The published length is the word index, which is in range. -/
theorem Inv.publish (h : Inv c s) : Inv c (publish c s) :=
  { h with pubLenRange := h.wordIdxRange }

theorem Inv.closed (h : Inv c s) : Inv c (closed c s) := by
  unfold Machine.closed
  split
  · exact h.clearStream.frameReset
  · exact h.clearStream.publish.frameReset

theorem Inv.loadThreshold (h : Inv c s) (cnt : Count) : Inv c (loadThreshold c cnt s) :=
  { h with startClean := nofun }

theorem Inv.parityBit (h : Inv c s) (hwf : c.WF) (hstart : s.startFlag = false) (b : Bool) :
    Inv c (parityBit c b s) :=
  { h with
    bitIdxRange := Nat.zero_le _
    wordIdxRange := Nat.le_sub_one_of_lt (overflowGuard_lt c hwf _)
    startClean := fun hset => absurd (hstart.symm.trans hset) Bool.false_ne_true }

theorem Inv.dataBit (h : Inv c s) (hwf : c.WF) (hstart : s.startFlag = false)
    (hpos : s.bitIdx ≠ 8) (b : Bool) : Inv c (dataBit c b s) :=
  { h with
    bitIdxRange := by
      have hrange := h.bitIdxRange
      rw [dataBit_bitIdx]
      bv_omega
    wordIdxRange := Nat.le_sub_one_of_lt (overflowGuard_lt c hwf _)
    startClean := fun hset => absurd (hstart.symm.trans hset) Bool.false_ne_true }

theorem Inv.assembleBit (h : Inv c s) (hwf : c.WF) (hstart : s.startFlag = false) (b : Bool) :
    Inv c (assembleBit c b s) := by
  unfold Machine.assembleBit
  split
  · exact h.parityBit hwf hstart b
  · exact h.dataBit hwf hstart ‹_› b

theorem Inv.frameBranch {t : State} (h : Inv c s) (ht : frameBranch c s = .ok t) : Inv c t := by
  rcases frameBranch_cases c s t ht with ⟨-, rfl⟩ | ⟨-, -, rfl⟩
  · exact h
  · exact h.closed

theorem Inv.bitBranch {t : State} (h : Inv c s) (hwf : c.WF) (ht : bitBranch c s = .ok t) :
    Inv c t := by
  rcases bitBranch_cases c s t ht with ⟨-, rfl⟩ | ⟨-, rfl | ⟨-, rfl⟩ | ⟨hstart, -, rfl⟩⟩
  · exact h
  · exact h.clearBit
  · exact h.clearBit.loadThreshold _
  · exact h.clearBit.assembleBit hwf hstart _

/-! ### Control and transmission -/

/-- RX_RESET stops both timers and clears the count, so receive may be off or on after it. -/
theorem Inv.rxReset_setEnabled (h : Inv c s) (b : Bool) : Inv c (rxReset (setEnabled b s)) :=
  { h with
    btoRange := nofun
    ftoRange := nofun
    bitIdxRange := Nat.zero_le _
    wordIdxRange := Nat.zero_le _
    startClean := fun _ => ⟨rfl, rfl, rfl⟩
    disabledQuiet := fun _ => ⟨rfl, rfl, rfl⟩ }

theorem Inv.stopOutputs (h : Inv c s) : Inv c (stopOutputs s) :=
  { h with
    timerTransmitting := rfl
    idleOutputs := fun _ => ⟨rfl, rfl⟩ }

/-- A payload that is accepted has room for its CRC Word. -/
theorem Inv.sendAccept (h : Inv c s) (hwf : c.WF) {bytes : List Byte}
    (hlen : bytes.length < c.maxWordlen - 1) : Inv c (sendAccept c bytes s) :=
  { h.rxReset_setEnabled false with
    timerTransmitting := rfl
    idleOutputs := nofun
    cursorRange := Nat.zero_le _
    bitLenRange := by
      obtain ⟨⟨-, hmax⟩, -⟩ := hwf
      rw [sendAccept_txBitLen, frameBitLen_toNat _ (by omega)]
      omega }

theorem Inv.txStop (h : Inv c s) : Inv c (txStop s) := by
  rcases txStop_cases s with ⟨-, heq⟩ | ⟨-, heq⟩ <;> rw [heq]
  · exact h.stopOutputs
  · exact h.stopOutputs.rxReset_setEnabled true

theorem Inv.countdown (h : Inv c s) : Inv c (countdown s) := { h with }

/-- While the timer runs the block transmits, so the clause on the outputs of an idle block asks
nothing. -/
theorem Inv.not_idle (h : Inv c s) (hrun : s.txTimerRun = true) : ¬s.transmitting = false := by
  simp [h.timerTransmitting, hrun]

theorem Inv.loadStart (h : Inv c s) (hrun : s.txTimerRun = true) : Inv c (loadStart c s) :=
  { h with idleOutputs := fun hidle => absurd hidle (h.not_idle hrun) }

theorem Inv.loadPause (h : Inv c s) (hrun : s.txTimerRun = true) : Inv c (loadPause c s) :=
  { h with idleOutputs := fun hidle => absurd hidle (h.not_idle hrun) }

theorem txCursor_lt_of_not_done (hmore : txDone c s = false) :
    s.txCursor.toNat < s.txBitLen.toNat ∧ s.txCursor.toNat < 9 * c.maxWordlen := by
  have h : ¬txDone c s = true := by simp [hmore]
  rw [txDone_iff] at h
  omega

theorem Inv.loadData (h : Inv c s) (hrun : s.txTimerRun = true) (hmore : txDone c s = false) :
    Inv c (loadData c s) :=
  have hcursor := (txCursor_lt_of_not_done hmore).1
  { h with
    idleOutputs := fun hidle => absurd hidle (h.not_idle hrun)
    cursorRange := (loadData_txCursor_toNat c s hcursor).trans_le hcursor }

theorem Inv.txTickStep (h : Inv c s) : Inv c (txTickStep c s) := by
  rcases txTickStep_cases c s with ⟨-, heq⟩ | ⟨-, -, heq⟩ | ⟨-, -, -, heq⟩ |
    ⟨hrun, -, -, -, heq⟩ | ⟨hrun, -, hmore, -, heq⟩ | ⟨hrun, -, -, -, heq⟩ <;> rw [heq]
  · exact h
  · exact h.countdown
  · exact h.txStop
  · exact h.loadStart hrun
  · exact h.loadData hrun hmore
  · exact h.loadPause hrun

/-! ### Every operation and every step -/

theorem Inv.leaves {i : Instr} {t : State} (h : Inv c s) (hwf : c.WF) (ht : Leaves c s t i) :
    Inv c t := by
  cases i with
  | edge => obtain rfl := ht; exact (h.edgeStep hwf).respond _ _
  | rxTick => obtain rfl := ht; exact h.rxTickStep.respond _ _
  | txTick => obtain rfl := ht; exact h.txTickStep.respond _ _
  | bitTimeout => obtain rfl := ht; exact h.bitTimeout.respond _ _
  | frameTimeout => obtain rfl := ht; exact h.frameTimeout.respond _ _
  | setupRx =>
    obtain ⟨-, rfl⟩ | ⟨-, rfl⟩ := ht
    · exact h.raiseFault _ _
    · exact (h.configureRx.rxReset_setEnabled true).respond _ _
  | setupTx =>
    obtain ⟨-, rfl⟩ | ⟨-, rfl⟩ := ht
    · exact h.raiseFault _ _
    · exact h.stopOutputs.configureTx.respond _ _
  | enable =>
    obtain ⟨-, rfl⟩ | ⟨-, rfl⟩ := ht
    · exact (h.rxReset_setEnabled true).respond _ _
    · exact h.raiseFault _ _
  | disable =>
    obtain ⟨-, rfl⟩ | ⟨-, rfl⟩ := ht
    · exact (h.rxReset_setEnabled false).respond _ _
    · exact h.raiseFault _ _
  | loop =>
    obtain ⟨-, rfl⟩ | ⟨-, s1, s2, hframe, hbit, rfl⟩ := ht
    · exact h.raiseFault _ _
    · exact ((h.frameBranch hframe).bitBranch hwf hbit).respond _ _
  | read =>
    obtain ⟨-, rfl⟩ | ⟨-, -, rfl⟩ | ⟨-, -, rfl⟩ := ht
    · exact h.raiseFault _ _
    · exact h.clearReady.respond _ _
    · exact h.respond _ _
  | send bytes =>
    obtain ⟨-, rfl⟩ | ⟨-, -, rfl⟩ | ⟨-, -, hlen, rfl⟩ := ht
    · exact h.raiseFault _ _
    · exact h.respond _ _
    · exact (h.sendAccept hwf hlen).respond _ _

/-- Settles O46: every operation is made of updates that each keep the invariant, and so is the
fetch of an illegal opcode. -/
theorem stepKeepsTheInvariant : Obligations.StepKeepsTheInvariant := by
  unfold Obligations.StepKeepsTheInvariant
  intro s t h hstep
  obtain ⟨-, ⟨i, rest, -, -, hexec⟩ | ⟨op, rest, rfl⟩⟩ := step_cases s t hstep
  · exact (h.takeInput rest).leaves Config_wf (exec_leaves i _ t hexec).2
  · exact (h.takeInput rest).raiseFault _ _

end Sys2Proof.Machine
end

section
/-! The word buffers (spec/20_memory.md section 1): every operation writes them inside the range,
and what follows from that. -/

namespace Sys2Proof.Machine

/-! ### Writes inside the range -/

/-- The second buffer is the first after writes to elements below `n`. -/
inductive WrittenBelow {w : Nat} (n : Nat) (b : WordBuf w) : WordBuf w → Prop
  /-- No write. -/
  | refl : WrittenBelow n b b
  /-- One more write. -/
  | write {b' : WordBuf w} (h : WrittenBelow n b b') {i : Nat} (hi : i < n) (v : BitVec w) :
    WrittenBelow n b (bufWrite b' i v)

variable {w n : Nat} {b b' b'' : WordBuf w}

theorem WrittenBelow.trans (h : WrittenBelow n b b') (h' : WrittenBelow n b' b'') :
    WrittenBelow n b b'' := by
  induction h' with
  | refl => exact h
  | write _ hi v ih => exact ih.write hi v

theorem WrittenBelow.writeAll (h : WrittenBelow n b b') (vs : List (BitVec w)) (start : Nat)
    (hlen : start + vs.length ≤ n) : WrittenBelow n b (bufWriteAll b' start vs) := by
  induction vs generalizing b' start with
  | nil => exact h
  | cons v vs ih =>
    rw [List.length_cons] at hlen
    exact ih (h.write (by omega) v) (start + 1) (by omega)

theorem WrittenBelow.keeps_wf (h : WrittenBelow n b b') (hb : bufWf b) : bufWf b' := by
  induction h with
  | refl => exact hb
  | write _ _ v ih => exact bufWrite_wf _ _ v ih

theorem WrittenBelow.keeps_below (h : WrittenBelow n b b') (hb : bufBelow n b) : bufBelow n b' := by
  induction h with
  | refl => exact hb
  | write _ hi v ih => exact bufWrite_below n _ _ v ih hi

theorem WrittenBelow.read_above (h : WrittenBelow n b b') {k : Nat} (hk : n ≤ k) :
    bufRead b' k = bufRead b k := by
  induction h with
  | refl => rfl
  | write _ hi v ih => exact (bufRead_bufWrite_ne _ _ _ v (by omega)).trans ih

/-! ### The buffers an operation leaves -/

/-- The word buffers of `t` are those of `s` after writes inside 0..MAX_WORDLEN-1. -/
structure WordsWritten (c : Cfg) (s t : State) : Prop where
  rx : WrittenBelow c.maxWordlen s.rxWords t.rxWords
  pub : WrittenBelow c.maxWordlen s.pubWords t.pubWords
  tx : WrittenBelow c.maxWordlen s.txWords t.txWords

variable {c : Cfg} {s t u : State}

theorem WordsWritten.trans (h : WordsWritten c s t) (h' : WordsWritten c t u) :
    WordsWritten c s u :=
  ⟨h.rx.trans h'.rx, h.pub.trans h'.pub, h.tx.trans h'.tx⟩

/-- The buffers are the same data. -/
theorem WordsWritten.of_eq (hrx : t.rxWords = s.rxWords) (hpub : t.pubWords = s.pubWords)
    (htx : t.txWords = s.txWords) : WordsWritten c s t := by
  refine ⟨?_, ?_, ?_⟩
  · exact hrx ▸ .refl
  · exact hpub ▸ .refl
  · exact htx ▸ .refl

theorem edgeStep_wordsWritten : WordsWritten c s (edgeStep c s) := by
  unfold edgeStep
  split <;> exact .of_eq rfl rfl rfl

theorem rxTickStep_wordsWritten : WordsWritten c s (rxTickStep s) := by
  unfold rxTickStep
  split <;> split <;> exact .of_eq rfl rfl rfl

theorem txTickStep_wordsWritten : WordsWritten c s (txTickStep c s) := by
  rcases txTickStep_cases c s with ⟨-, heq⟩ | ⟨-, -, heq⟩ | ⟨-, -, -, heq⟩ |
    ⟨-, -, -, -, heq⟩ | ⟨-, -, -, -, heq⟩ | ⟨-, -, -, -, heq⟩ <;> rw [heq]
  · exact .of_eq rfl rfl rfl
  · exact .of_eq rfl rfl rfl
  · rcases txStop_cases s with ⟨-, hstop⟩ | ⟨-, hstop⟩ <;> rw [hstop] <;>
      exact .of_eq rfl rfl rfl
  · exact .of_eq rfl rfl rfl
  · exact .of_eq rfl rfl rfl
  · exact .of_eq rfl rfl rfl

/-- A publication copies as many Words as the word index says, all of them in the buffer. -/
theorem closed_wordsWritten (h : s.wordIdx.toNat ≤ c.maxWordlen) :
    WordsWritten c s (closed c s) := by
  unfold closed
  split
  · exact .of_eq rfl rfl rfl
  · exact ⟨.refl, WrittenBelow.refl.writeAll _ _ (by simpa using h), .refl⟩

theorem frameBranch_wordsWritten (h : frameBranch c s = .ok t) : WordsWritten c s t := by
  rcases frameBranch_cases c s t h with ⟨-, rfl⟩ | ⟨-, hidx, rfl⟩
  · exact .of_eq rfl rfl rfl
  · exact closed_wordsWritten hidx

theorem assembleBit_wordsWritten (h : s.wordIdx.toNat < c.maxWordlen) (b : Bool) :
    WordsWritten c s (assembleBit c b s) := by
  unfold assembleBit
  split
  · exact .of_eq rfl rfl rfl
  · exact ⟨WrittenBelow.refl.write h _, .refl, .refl⟩

theorem bitBranch_wordsWritten (h : bitBranch c s = .ok t) : WordsWritten c s t := by
  rcases bitBranch_cases c s t h with ⟨-, rfl⟩ | ⟨-, rfl | ⟨-, rfl⟩ | ⟨-, hidx, rfl⟩⟩
  · exact .of_eq rfl rfl rfl
  · exact .of_eq rfl rfl rfl
  · exact .of_eq rfl rfl rfl
  · have hclear : WordsWritten c s (clearBit s) := .of_eq rfl rfl rfl
    exact hclear.trans (assembleBit_wordsWritten (s := clearBit s) hidx _)

/-- The payload of an accepted SEND and its CRC Word fit in the buffer. -/
theorem sendAccept_wordsWritten {bytes : List Byte} (h : bytes.length < c.maxWordlen - 1) :
    WordsWritten c s (sendAccept c bytes s) :=
  ⟨.refl, .refl, WrittenBelow.refl.writeAll _ _ (by rw [frameWords_length]; omega)⟩

theorem Leaves.wordsWritten {i : Instr} (h : Leaves c s t i) : WordsWritten c s t := by
  cases i with
  | edge => obtain rfl := h; exact edgeStep_wordsWritten.trans (.of_eq rfl rfl rfl)
  | rxTick => obtain rfl := h; exact rxTickStep_wordsWritten.trans (.of_eq rfl rfl rfl)
  | txTick => obtain rfl := h; exact txTickStep_wordsWritten.trans (.of_eq rfl rfl rfl)
  | bitTimeout | frameTimeout => obtain rfl := h; exact .of_eq rfl rfl rfl
  | setupRx | setupTx | enable | disable =>
    obtain ⟨-, rfl⟩ | ⟨-, rfl⟩ := h <;> exact .of_eq rfl rfl rfl
  | loop =>
    obtain ⟨-, rfl⟩ | ⟨-, s1, s2, hframe, hbit, rfl⟩ := h
    · exact .of_eq rfl rfl rfl
    · exact ((frameBranch_wordsWritten hframe).trans (bitBranch_wordsWritten hbit)).trans
        (.of_eq rfl rfl rfl)
  | read => obtain ⟨-, rfl⟩ | ⟨-, -, rfl⟩ | ⟨-, -, rfl⟩ := h <;> exact .of_eq rfl rfl rfl
  | send bytes =>
    obtain ⟨-, rfl⟩ | ⟨-, -, rfl⟩ | ⟨-, -, hlen, rfl⟩ := h
    · exact .of_eq rfl rfl rfl
    · exact .of_eq rfl rfl rfl
    · exact (sendAccept_wordsWritten hlen).trans (.of_eq rfl rfl rfl)

theorem exec_wordsWritten {i : Instr} (h : exec i s = .next t) : WordsWritten Config.cfg s t :=
  (exec_leaves i s t h).2.wordsWritten

theorem step_wordsWritten (h : step s = .next t) : WordsWritten Config.cfg s t := by
  obtain ⟨-, ⟨i, rest, -, -, hexec⟩ | ⟨op, rest, rfl⟩⟩ := step_cases s t h
  · have htaken : WordsWritten Config.cfg s { s with input := rest } := .of_eq rfl rfl rfl
    exact htaken.trans (exec_wordsWritten hexec)
  · exact .of_eq rfl rfl rfl

/-- Settles O48: a step only writes its buffers inside the range, and such writes keep both the
canonical form and the range. -/
theorem stepKeepsTheBuffers : Obligations.StepKeepsTheBuffers := by
  unfold Obligations.StepKeepsTheBuffers
  intro s t ⟨hrx, hpub, htx⟩ ⟨hrxIn, hpubIn, htxIn⟩ hstep
  obtain ⟨rx, pub, tx⟩ := step_wordsWritten hstep
  exact ⟨⟨rx.keeps_wf hrx, pub.keeps_wf hpub, tx.keeps_wf htx⟩,
    ⟨rx.keeps_below hrxIn, pub.keeps_below hpubIn, tx.keeps_below htxIn⟩⟩

/-! ### The index assertion of LOOP and READ (R45) -/

/-- Every Word that LOOP touches from the invariant is in the buffer. -/
theorem Inv.loopStep_ok (h : Inv c s) (hwf : c.WF) : ∃ u, loopStep c s = .ok u := by
  obtain ⟨⟨hmin, -⟩, -⟩ := id hwf
  have hrange := h.wordIdxRange
  have hframe : ∃ u, Machine.frameBranch c s = .ok u := by
    cases hstream : s.streamRx with
    | false => exact ⟨s, by simp [Machine.frameBranch, hstream]⟩
    | true => exact ⟨_, frameBranch_close c s hstream (by omega)⟩
  obtain ⟨s1, hs1⟩ := hframe
  have hidx : s1.wordIdx.toNat + 1 ≤ c.maxWordlen := by
    have := (h.frameBranch hs1).wordIdxRange
    omega
  rw [loopStep, hs1]
  cases hbit : s1.bitRx with
  | false => exact ⟨s1, by simp [Machine.bitBranch, hbit]⟩
  | true =>
    simp only [Machine.bitBranch, hbit, if_true]
    rcases bitCases_cases c s1.pulseCnt (Machine.clearBit s1) with ⟨-, heq⟩ | ⟨-, -, -, heq⟩ |
      ⟨-, -, -, heq⟩ | ⟨-, -, heq⟩
    · exact ⟨_, heq⟩
    · exact ⟨_, heq⟩
    · exact ⟨_, heq⟩
    · exact ⟨_, heq.trans (needWords_le _ _ _ hidx)⟩

/-- LOOP and READ alone carry the assertion. -/
theorem loop_or_read_of_fault {i : Instr} {e : Fault} (h : exec i s = .fault e) :
    s.fault = none ∧ (i = .loop ∨ i = .read) := by
  rw [exec_eq_execOn] at h
  cases hfault : s.fault with
  | some code => rw [execOn_stuck _ _ _ _ hfault] at h; cases h
  | none =>
    refine ⟨rfl, ?_⟩
    cases i with
    | loop => exact .inl rfl
    | read => exact .inr rfl
    | edge => rw [execOn_edge _ _ hfault] at h; cases h
    | rxTick => rw [execOn_rxTick _ _ hfault] at h; cases h
    | txTick => rw [execOn_txTick _ _ hfault] at h; cases h
    | setupRx => rw [execOn_setupRx _ _ hfault] at h; cases h
    | setupTx => rw [execOn_setupTx _ _ hfault] at h; cases h
    | enable => rw [execOn_enable _ _ hfault] at h; cases h
    | disable => rw [execOn_disable _ _ hfault] at h; cases h
    | send bytes => rw [execOn_send _ _ _ hfault] at h; cases h
    | bitTimeout => rw [execOn_bitTimeout _ _ hfault] at h; cases h
    | frameTimeout => rw [execOn_frameTimeout _ _ hfault] at h; cases h

theorem Inv.exec_ne_fault (h : Inv Config.cfg s) (i : Instr) (e : Fault) :
    exec i s ≠ .fault e := by
  intro hexec
  obtain ⟨hfault, rfl | rfl⟩ := loop_or_read_of_fault hexec <;> rw [exec_eq_execOn] at hexec <;>
    cases hconf : s.rxConfigured
  · cases (execOn_loop_unconfigured _ s hfault hconf).symm.trans hexec
  · obtain ⟨u, hu⟩ := h.loopStep_ok Config_wf
    cases (execOn_loop_of _ s u hfault hconf hu).symm.trans hexec
  · cases (execOn_read_unconfigured _ s hfault hconf).symm.trans hexec
  · cases hready : s.dataReady
    · cases (execOn_read_empty _ s hfault hconf hready).symm.trans hexec
    · have hlen := h.pubLenRange
      cases (execOn_read_ready _ s hfault hconf hready (by omega)).symm.trans hexec

/-- The fetch has no assertion of its own. -/
theorem exec_fault_of_step {e : Fault} (h : step s = .fault e) :
    ∃ i rest, exec i { s with input := rest } = .fault e := by
  have hrunning : s.fault = none := by
    cases hfault : s.fault with
    | none => rfl
    | some code => cases (step_stuck hfault).symm.trans h
  cases hdec : decode s.input with
  | error err =>
    cases err with
    | noInput => simp [step, fetch, hrunning, hdec] at h
    | incompleteSend => cases (step_of_incompleteSend hrunning hdec).symm.trans h
    | illegalOpcode b => cases (step_of_illegalOpcode hrunning hdec).symm.trans h
  | ok p =>
    obtain ⟨i, rest⟩ := p
    cases hwf : i.wellFormed with
    | true => exact ⟨i, rest, (step_of_wellFormed hrunning hdec hwf).symm.trans h⟩
    | false => cases (step_of_illFormed hrunning hdec hwf).symm.trans h

theorem Inv.step_ne_fault (h : Inv Config.cfg s) (e : Fault) : step s ≠ .fault e := by
  intro hstep
  obtain ⟨i, rest, hexec⟩ := exec_fault_of_step hstep
  exact (h.takeInput rest).exec_ne_fault i e hexec

theorem send_length_of_accepted {bytes : List Byte} (h : exec (.send bytes) s = .next t)
    (hresp : t.response = some [0x01]) : bytes.length + 1 ≤ Config.cfg.maxWordlen := by
  obtain ⟨-, ⟨-, rfl⟩ | ⟨-, -, rfl⟩ | ⟨-, -, hlen, rfl⟩⟩ := exec_leaves _ s t h
  · simp at hresp
  · simp at hresp
  · omega

theorem txStop_txCursor (s : State) : (txStop s).txCursor = s.txCursor := by
  rcases txStop_cases s with ⟨-, heq⟩ | ⟨-, heq⟩ <;> rw [heq] <;> rfl

/-- Only a data burst moves the cursor, and it reads the Word of a cursor inside the buffer. -/
theorem txCursor_word_lt (h : exec .txTick s = .next t) (hmoved : t.txCursor ≠ s.txCursor) :
    s.txCursor.toNat / 9 < Config.cfg.maxWordlen := by
  obtain rfl := (exec_leaves _ s t h).2
  rw [respond_txCursor] at hmoved
  rcases txTickStep_cases Config.cfg s with ⟨-, heq⟩ | ⟨-, -, heq⟩ | ⟨-, -, -, heq⟩ |
    ⟨-, -, -, -, heq⟩ | ⟨-, -, hmore, -, heq⟩ | ⟨-, -, -, -, heq⟩ <;> rw [heq] at hmoved
  case inr.inr.inr.inr.inl =>
    exact Nat.div_lt_of_lt_mul (txCursor_lt_of_not_done hmore).2
  case inr.inr.inl => exact absurd (txStop_txCursor s) hmoved
  all_goals exact absurd rfl hmoved

/-- Settles O50: the invariant bounds the two indices that are asserted, writes inside the range
leave every element outside it, and SEND and TXTICK test their own length and cursor. -/
theorem noStepLeavesTheBuffers : Obligations.NoStepLeavesTheBuffers := by
  unfold Obligations.NoStepLeavesTheBuffers
  refine ⟨fun s h => ⟨h.step_ne_fault, h.exec_ne_fault⟩, fun i s t k hexec hk => ?_,
    fun bytes s t => send_length_of_accepted, fun s t => txCursor_word_lt⟩
  obtain ⟨rx, pub, tx⟩ := exec_wordsWritten hexec
  exact ⟨rx.read_above hk, pub.read_above hk, tx.read_above hk⟩

end Sys2Proof.Machine
end

section
/-! The statements about the reset state (spec/10_state.md section 5,
spec/70_reset_and_hazards.md section 1), settled. -/

namespace Sys2Proof.Machine

/-- Settles O45: at reset every counter is 0, no timer runs and nothing is transmitted. -/
theorem resetMeetsTheInvariants : Obligations.ResetMeetsTheInvariants := by
  unfold Obligations.ResetMeetsTheInvariants
  refine ⟨?_, nofun, nofun⟩
  constructor <;> simp [State.reset]

/-- Settles O49: no buffer lists an element at reset. -/
theorem resetBuffersAreCanonical : Obligations.ResetBuffersAreCanonical := by
  unfold Obligations.ResetBuffersAreCanonical
  have hempty (w : Nat) : bufWf ([] : WordBuf w) := ⟨.nil, nofun⟩
  exact ⟨⟨hempty 8, hempty 8, hempty 9⟩, nofun, nofun, nofun⟩

/-- Settles O2: receive is disabled, neither receive timer runs, and the transmit timer is
stopped. -/
theorem eventsDoNothingAtReset : Obligations.EventsDoNothingAtReset := by
  unfold Obligations.EventsDoNothingAtReset
  have hkept (ops : List Byte) : UnchangedBut [] State.reset (respond ops [] State.reset) :=
    (unchangedBut_refl [] State.reset).respond ops []
  have hedge : edgeStep Config.cfg State.reset = State.reset := edgeStep_of_disabled _ _ rfl
  have htxTick : txTickStep Config.cfg State.reset = State.reset := txTickStep_of_stopped _ _ rfl
  simp only [List.forall_mem_cons, exec_eq_execOn]
  refine ⟨⟨_, execOn_edge _ _ rfl, ⟨rfl, rfl⟩, ?_⟩, ⟨_, execOn_rxTick _ _ rfl, ⟨rfl, rfl⟩, ?_⟩,
    ⟨_, execOn_txTick _ _ rfl, ⟨rfl, rfl⟩, ?_⟩, nofun⟩
  · exact hedge.symm ▸ hkept _
  · exact hkept _
  · exact htxTick.symm ▸ hkept _

end Sys2Proof.Machine
end

section
/-! The statements about who writes what (spec/10_state.md section 3, spec/20_memory.md section 5,
spec/60_exceptions.md section 5), settled. -/

namespace Sys2Proof.Machine

/-! ### The writers of each part, read off `ownParts` -/

theorem mem_ownParts_setup {i : Instr} (h : .setup ∈ ownParts i) :
    i = .setupRx ∨ i = .setupTx := by
  cases i <;>
    simp_all [ownParts, rxTickParts, txTickParts, setupTxParts, loopParts, frameCloseParts]

theorem mem_ownParts_latch {i : Instr} (h : .latch ∈ ownParts i) :
    i = .rxTick ∨ i = .bitTimeout := by
  cases i <;> simp_all [ownParts, txTickParts, setupTxParts, loopParts, frameCloseParts]

theorem mem_ownParts_bitFlag {i : Instr} (h : .bitFlag ∈ ownParts i) :
    i = .rxTick ∨ i = .bitTimeout ∨ i = .loop := by
  cases i <;> simp_all [ownParts, txTickParts, setupTxParts]

theorem mem_ownParts_streamFlag {i : Instr} (h : .streamFlag ∈ ownParts i) :
    i = .rxTick ∨ i = .frameTimeout ∨ i = .loop := by
  cases i <;> simp_all [ownParts, txTickParts, setupTxParts]

theorem mem_ownParts_perFrame {i : Instr} (h : .perFrame ∈ ownParts i) : i = .loop := by
  cases i <;> simp_all [ownParts, rxTickParts, txTickParts, setupTxParts]

theorem mem_ownParts_rxBuffer {i : Instr} (h : .rxBuffer ∈ ownParts i) : i = .loop := by
  cases i <;> simp_all [ownParts, rxTickParts, txTickParts, setupTxParts]

theorem mem_ownParts_published {i : Instr} (h : .published ∈ ownParts i) : i = .loop := by
  cases i <;> simp_all [ownParts, rxTickParts, txTickParts, setupTxParts]

theorem mem_ownParts_ready {i : Instr} (h : .ready ∈ ownParts i) : i = .loop ∨ i = .read := by
  cases i <;> simp_all [ownParts, rxTickParts, txTickParts, setupTxParts]

theorem mem_ownParts_txFrame {i : Instr} (h : .txFrame ∈ ownParts i) :
    ∃ bytes, i = .send bytes := by
  cases i <;>
    simp_all [ownParts, rxTickParts, txTickParts, setupTxParts, loopParts, frameCloseParts]

theorem mem_ownParts_scheduler {i : Instr} (h : .scheduler ∈ ownParts i) :
    i = .txTick ∨ ∃ bytes, i = .send bytes := by
  cases i <;>
    simp_all [ownParts, rxTickParts, txTickParts, setupTxParts, loopParts, frameCloseParts]

theorem mem_ownParts_transmission {i : Instr} (h : .transmission ∈ ownParts i) :
    i = .txTick ∨ i = .setupTx ∨ ∃ bytes, i = .send bytes := by
  cases i <;> simp_all [ownParts, rxTickParts, loopParts, frameCloseParts]

theorem input_notMem_ownParts (i : Instr) : .input ∉ ownParts i := by
  cases i <;>
    simp [ownParts, rxTickParts, txTickParts, setupTxParts, loopParts, frameCloseParts]

/-! ### The setup flags (R18) -/

theorem setupRx_flags {s t : State} (h : exec .setupRx s = .next t) :
    t.rxConfigured = true ∧ t.txConfigured = s.txConfigured := by
  obtain ⟨-, ⟨hconf, rfl⟩ | ⟨-, rfl⟩⟩ := exec_leaves _ s t h
  · exact ⟨hconf, rfl⟩
  · exact ⟨rfl, rfl⟩

theorem setupTx_flags {s t : State} (h : exec .setupTx s = .next t) :
    t.txConfigured = true ∧ t.rxConfigured = s.rxConfigured := by
  obtain ⟨-, ⟨hconf, rfl⟩ | ⟨-, rfl⟩⟩ := exec_leaves _ s t h
  · exact ⟨hconf, rfl⟩
  · exact ⟨rfl, rfl⟩

/-- Settles O52: an operation that is no setup does not write the flags, and a setup leaves its own
set, faulting where it was set before. -/
theorem setupFlagsAreSetOnlyBySetup : Obligations.SetupFlagsAreSetOnlyBySetup := by
  unfold Obligations.SetupFlagsAreSetOnlyBySetup
  refine ⟨⟨rfl, rfl⟩, fun i s t hexec => ?_⟩
  by_cases hown : .setup ∈ ownParts i
  · rcases mem_ownParts_setup hown with rfl | rfl
    · obtain ⟨hset, hkept⟩ := setupRx_flags hexec
      simp [hset, hkept]
    · obtain ⟨hset, hkept⟩ := setupTx_flags hexec
      simp [hset, hkept]
  · obtain ⟨hrx, htx⟩ := exec_keeps hexec (p := .setup) (by decide) hown
    have hrxSetup : i ≠ .setupRx := by
      rintro rfl
      exact hown (by decide)
    have htxSetup : i ≠ .setupTx := by
      rintro rfl
      exact hown (by decide)
    simp [hrx, htx, hrxSetup, htxSetup]

/-! ### The half-duplex interlock (R165) -/

/-- An operation that leaves receive and the transmission as they are keeps the interlock. -/
theorem Interlock.of_sameParts {s t : State} (h : Interlock s) (henabled : samePart s t .enabled)
    (htransmission : samePart s t .transmission) : Interlock t := by
  obtain ⟨htransmitting, -⟩ := htransmission
  rw [Interlock, htransmitting, henabled]
  exact h

theorem Interlock.of_idle {s : State} (h : s.transmitting = false) : Interlock s := by
  simp [Interlock, h]

/-- No phase of a TXTICK turns receive on but the transmit stop, which ends the transmission. -/
theorem interlock_txTickStep {c : Cfg} {s : State} (h : Interlock s) :
    Interlock (txTickStep c s) := by
  rcases txTickStep_cases c s with ⟨-, heq⟩ | ⟨-, -, heq⟩ | ⟨-, -, -, heq⟩ |
    ⟨-, -, -, -, heq⟩ | ⟨-, -, -, -, heq⟩ | ⟨-, -, -, -, heq⟩ <;> rw [heq]
  · exact h
  · exact h
  · rcases txStop_cases s with ⟨-, hstop⟩ | ⟨-, hstop⟩ <;> rw [hstop] <;> exact .of_idle rfl
  · exact h
  · exact h
  · exact h

theorem exec_keeps_interlock {i : Instr} {s t : State} (henable : i ≠ .enable)
    (hsetupRx : i ≠ .setupRx) (h : Interlock s) (hexec : exec i s = .next t) : Interlock t := by
  cases i with
  | enable => exact absurd rfl henable
  | setupRx => exact absurd rfl hsetupRx
  | edge | rxTick | loop | read | bitTimeout | frameTimeout =>
    exact h.of_sameParts (exec_keeps hexec (by decide) (by decide))
      (exec_keeps hexec (by decide) (by decide))
  | txTick =>
    obtain rfl := (exec_leaves _ s t hexec).2
    exact interlock_txTickStep h
  | setupTx =>
    obtain ⟨-, ⟨-, rfl⟩ | ⟨-, rfl⟩⟩ := exec_leaves _ s t hexec
    · exact h
    · exact .of_idle rfl
  | disable =>
    obtain ⟨-, ⟨-, rfl⟩ | ⟨-, rfl⟩⟩ := exec_leaves _ s t hexec
    · exact fun _ => rfl
    · exact h
  | send bytes =>
    obtain ⟨-, ⟨-, rfl⟩ | ⟨-, -, rfl⟩ | ⟨-, -, -, rfl⟩⟩ := exec_leaves _ s t hexec
    · exact h
    · exact h
    · exact fun _ => rfl

/-- Settles O51: only ENABLE and SETUP_RX turn receive on without ending the transmission, and with
receive off an EDGE does nothing. -/
theorem interlockHoldsUnlessReceiveIsEnabled :
    Obligations.InterlockHoldsUnlessReceiveIsEnabled := by
  unfold Obligations.InterlockHoldsUnlessReceiveIsEnabled
  refine ⟨fun i s t => exec_keeps_interlock, fun s t h htransmitting hexec => ?_⟩
  obtain rfl := (exec_leaves _ s t hexec).2
  rw [edgeStep_of_disabled _ s (h htransmitting)]
  exact (unchangedBut_refl _ s).respond _ _

/-! ### The validity flag (R30) -/

/-- A set validity flag after a bit branch was set before it: the parity check only clears it. -/
theorem bitBranch_valid {c : Cfg} {s t : State} (h : bitBranch c s = .ok t)
    (hvalid : t.valid = true) : s.valid = true := by
  rcases bitBranch_cases c s t h with ⟨-, rfl⟩ | ⟨-, rfl | ⟨-, rfl⟩ | ⟨-, -, rfl⟩⟩
  · exact hvalid
  · exact hvalid
  · exact hvalid
  · unfold assembleBit at hvalid
    split at hvalid
    · rw [parityBit_valid, Bool.and_eq_true] at hvalid
      exact hvalid.1
    · exact hvalid

/-- With the start flag set the bit branch moves neither index. -/
theorem bitBranch_of_start {c : Cfg} {s t : State} (h : bitBranch c s = .ok t)
    (hstart : s.startFlag = true) :
    (s.bitRx = false ∧ t = s) ∨
      (s.bitRx = true ∧ t.bitIdx = s.bitIdx ∧ t.wordIdx = s.wordIdx) := by
  rcases bitBranch_cases c s t h with hidle | ⟨hbit, rfl | ⟨-, rfl⟩ | ⟨hclear, -⟩⟩
  · exact .inl hidle
  · exact .inr ⟨hbit, rfl, rfl⟩
  · exact .inr ⟨hbit, rfl, rfl⟩
  · simp [hstart] at hclear

/-- A LOOP that sets the validity flag again has closed a frame, and a pending bit is then at most
a start bit. -/
theorem loop_sets_valid {s t : State} (h : exec .loop s = .next t) (hs : s.valid = false)
    (ht : t.valid = true) :
    PerFrameReset t ∨
      (s.streamRx = true ∧ s.bitRx = true ∧ t.bitIdx = 0 ∧ t.wordIdx = 0) := by
  obtain ⟨-, ⟨-, rfl⟩ | ⟨-, s1, s2, hframe, hbit, rfl⟩⟩ := exec_leaves _ s t h
  · simp [hs] at ht
  · have hvalid : s1.valid = true := bitBranch_valid hbit ht
    rcases frameBranch_cases _ _ _ hframe with ⟨-, rfl⟩ | ⟨hstream, -, rfl⟩
    · simp [hs] at hvalid
    · have hreset := closed_perFrameReset Config.cfg s
      obtain ⟨-, hbitIdx, hwordIdx, hstart, -⟩ := id hreset
      rcases bitBranch_of_start hbit hstart with ⟨-, rfl⟩ | ⟨hpending, hb, hw⟩
      · exact .inl hreset
      · exact .inr ⟨hstream, (closed_bitRx _ s).symm.trans hpending, hb.trans hbitIdx,
          hw.trans hwordIdx⟩

/-- Settles O24: an operation that does not reset the per-frame state writes the flag only as LOOP,
whose parity check clears it and whose frame close sets it. -/
theorem invalidFrameStaysInvalid : Obligations.InvalidFrameStaysInvalid := by
  unfold Obligations.InvalidFrameStaysInvalid
  intro i s t hexec hs ht
  rcases exec_writes hexec with ⟨-, ⟨-, -, -, -, -, -, -, hreset⟩, -⟩ | hframe
  · exact .inl hreset
  · by_cases hown : .perFrame ∈ ownParts i
    · obtain rfl := mem_ownParts_perFrame hown
      exact (loop_sets_valid hexec hs ht).imp_right (⟨rfl, ·⟩)
    · obtain ⟨-, -, -, -, hvalid⟩ := hframe .perFrame (by simp [hown])
      simp [hvalid, hs] at ht

end Sys2Proof.Machine
end

section
/-! Each element and its writers (spec/10_state.md section 3, spec/20_memory.md section 5),
settled. -/

namespace Sys2Proof.Machine

variable {i : Instr} {s t : State}

/-- A part that changed is one of the operation's own, or receive was reset. -/
theorem mem_ownParts_or_resets (h : exec i s = .next t) {p : Part} (hp : p ≠ .faultReg)
    (hchanged : ¬samePart s t p) : p ∈ ownParts i ∨ (ResetsReceive i s t ∧ ReceiveReset t) := by
  rcases exec_writes h with ⟨hresets, hreset, -⟩ | hframe
  · exact .inr ⟨hresets, hreset⟩
  · refine .inl (not_not.1 fun hown => hchanged (hframe p ?_))
    simp [hp, hown]

/-! ### What single operations do to a flag -/

theorem rxTickStep_keeps_bitRx (hs : s.bitRx = true) : (rxTickStep s).bitRx = true := by
  have h := rxTickStep_bitWindow s
  split at h <;> obtain ⟨-, -, hbit, -⟩ := h
  · exact hbit
  · exact hbit.trans hs

theorem rxTickStep_keeps_streamRx (hs : s.streamRx = true) : (rxTickStep s).streamRx = true := by
  have h := rxTickStep_frameEnd s
  split at h <;> obtain ⟨hstream, -⟩ := h
  · exact hstream
  · exact hstream.trans hs

/-- LOOP sets neither flag. -/
theorem loop_keeps_flags_clear (h : exec .loop s = .next t) :
    (s.bitRx = false → t.bitRx = false) ∧ (s.streamRx = false → t.streamRx = false) := by
  cases hconf : s.rxConfigured with
  | true =>
    obtain ⟨hstream, hbit⟩ := exec_loop_clears_flags s t hconf h
    exact ⟨fun _ => hbit, fun _ => hstream⟩
  | false =>
    obtain ⟨-, ⟨-, rfl⟩ | ⟨hset, -⟩⟩ := exec_leaves _ s t h
    · exact ⟨id, id⟩
    · simp [hconf] at hset

/-- A publication sets data-ready, and no branch of LOOP clears it. -/
theorem loop_keeps_dataReady (h : exec .loop s = .next t) (hs : s.dataReady = true) :
    t.dataReady = true := by
  obtain ⟨-, ⟨-, rfl⟩ | ⟨-, s1, s2, hframe, hbit, rfl⟩⟩ := exec_leaves _ s t h
  · exact hs
  · have hs1 : s1.dataReady = true := by
      rcases frameBranch_cases _ _ _ hframe with ⟨-, rfl⟩ | ⟨-, -, rfl⟩
      · exact hs
      · unfold closed
        split
        · exact hs
        · rfl
    rcases bitBranch_cases _ _ _ hbit with ⟨-, rfl⟩ | ⟨-, rfl | ⟨-, rfl⟩ | ⟨-, -, rfl⟩⟩
    · exact hs1
    · exact hs1
    · exact hs1
    · exact (assembleBit_frame _ _ _ .ready (by decide)).trans hs1

theorem read_keeps_dataReady_clear (h : exec .read s = .next t) (hs : s.dataReady = false) :
    t.dataReady = false := by
  obtain ⟨-, ⟨-, rfl⟩ | ⟨-, -, rfl⟩ | ⟨-, -, rfl⟩⟩ := exec_leaves _ s t h
  · exact hs
  · rfl
  · exact hs

theorem send_keeps_transmitting (bytes : List Byte) (h : exec (.send bytes) s = .next t)
    (hs : s.transmitting = true) : t.transmitting = true := by
  obtain ⟨-, ⟨-, rfl⟩ | ⟨-, -, rfl⟩ | ⟨-, -, -, rfl⟩⟩ := exec_leaves _ s t h
  · exact hs
  · exact hs
  · rfl

/-- A TXTICK starts no transmission. -/
theorem txTickStep_keeps_idle (c : Cfg) (hs : s.transmitting = false) :
    (txTickStep c s).transmitting = false := by
  rcases txTickStep_cases c s with ⟨-, heq⟩ | ⟨-, -, heq⟩ | ⟨-, -, -, heq⟩ |
    ⟨-, -, -, -, heq⟩ | ⟨-, -, -, -, heq⟩ | ⟨-, -, -, -, heq⟩ <;> rw [heq]
  case inr.inr.inl => rcases txStop_cases s with ⟨-, hstop⟩ | ⟨-, hstop⟩ <;> rw [hstop] <;> rfl
  all_goals exact hs

theorem setupTx_keeps_idle (h : exec .setupTx s = .next t) (hs : s.transmitting = false) :
    t.transmitting = false := by
  obtain ⟨-, ⟨-, rfl⟩ | ⟨-, rfl⟩⟩ := exec_leaves _ s t h
  · exact hs
  · rfl

/-! ### The clauses -/

theorem edgeCnt_writers (h : exec i s = .next t) (hchanged : t.edgeCnt ≠ s.edgeCnt) :
    i = .edge ∨ i = .rxTick ∨ i = .bitTimeout ∨ ResetsReceive i s t := by
  rcases mem_ownParts_or_resets h (p := .capture) (by decide) (fun hsame => hchanged hsame.1) with
    hown | ⟨hresets, -⟩
  · rcases mem_ownParts_capture hown with hi | hi | hi | rfl
    · exact .inl hi
    · exact .inr (.inl hi)
    · exact .inr (.inr (.inl hi))
    · obtain rfl := (exec_leaves _ s t h).2
      exact absurd rfl hchanged
  · exact .inr (.inr (.inr hresets))

theorem pulseCnt_writers (h : exec i s = .next t) (hchanged : t.pulseCnt ≠ s.pulseCnt) :
    i = .rxTick ∨ i = .bitTimeout :=
  mem_ownParts_latch (mem_ownParts_of_changed h (by decide) hchanged)

theorem bitRx_setters (h : exec i s = .next t) (ht : t.bitRx = true) (hs : s.bitRx = false) :
    i = .rxTick ∨ i = .bitTimeout := by
  have hchanged : ¬samePart s t .bitFlag := by simp [samePart, ht, hs]
  rcases mem_ownParts_or_resets h (by decide) hchanged with hown | ⟨-, -, -, -, -, -, hbit, -⟩
  · rcases mem_ownParts_bitFlag hown with hi | hi | rfl
    · exact .inl hi
    · exact .inr hi
    · simp [(loop_keeps_flags_clear h).1 hs] at ht
  · simp [hbit] at ht

theorem bitRx_clearers (h : exec i s = .next t) (ht : t.bitRx = false) (hs : s.bitRx = true) :
    i = .loop ∨ ResetsReceive i s t := by
  have hchanged : ¬samePart s t .bitFlag := by simp [samePart, ht, hs]
  rcases mem_ownParts_or_resets h (by decide) hchanged with hown | ⟨hresets, -⟩
  · rcases mem_ownParts_bitFlag hown with rfl | rfl | hi
    · obtain rfl := (exec_leaves _ s t h).2
      simp [rxTickStep_keeps_bitRx hs] at ht
    · obtain rfl := (exec_leaves _ s t h).2
      simp at ht
    · exact .inl hi
  · exact .inr hresets

theorem streamRx_setters (h : exec i s = .next t) (ht : t.streamRx = true)
    (hs : s.streamRx = false) : i = .rxTick ∨ i = .frameTimeout := by
  have hchanged : ¬samePart s t .streamFlag := by simp [samePart, ht, hs]
  rcases mem_ownParts_or_resets h (by decide) hchanged with hown | ⟨-, -, -, -, -, -, -, hstream, -⟩
  · rcases mem_ownParts_streamFlag hown with hi | hi | rfl
    · exact .inl hi
    · exact .inr hi
    · simp [(loop_keeps_flags_clear h).2 hs] at ht
  · simp [hstream] at ht

theorem streamRx_clearers (h : exec i s = .next t) (ht : t.streamRx = false)
    (hs : s.streamRx = true) : i = .loop ∨ ResetsReceive i s t := by
  have hchanged : ¬samePart s t .streamFlag := by simp [samePart, ht, hs]
  rcases mem_ownParts_or_resets h (by decide) hchanged with hown | ⟨hresets, -⟩
  · rcases mem_ownParts_streamFlag hown with rfl | rfl | hi
    · obtain rfl := (exec_leaves _ s t h).2
      simp [rxTickStep_keeps_streamRx hs] at ht
    · obtain rfl := (exec_leaves _ s t h).2
      simp at ht
    · exact .inl hi
  · exact .inr hresets

/-- A receive reset sets the start flag. -/
theorem startFlag_clearers (h : exec i s = .next t) (ht : t.startFlag = false)
    (hs : s.startFlag = true) : i = .loop := by
  have hchanged : ¬samePart s t .perFrame := by simp [samePart, ht, hs]
  rcases mem_ownParts_or_resets h (by decide) hchanged with
    hown | ⟨-, -, -, -, -, -, -, -, -, -, -, hstart, -⟩
  · exact mem_ownParts_perFrame hown
  · simp [hstart] at ht

theorem dataReady_setters (h : exec i s = .next t) (ht : t.dataReady = true)
    (hs : s.dataReady = false) : i = .loop := by
  have hchanged : ¬samePart s t .ready := by simp [samePart, ht, hs]
  rcases mem_ownParts_ready (mem_ownParts_of_changed h (by decide) hchanged) with hi | rfl
  · exact hi
  · simp [read_keeps_dataReady_clear h hs] at ht

theorem dataReady_clearers (h : exec i s = .next t) (ht : t.dataReady = false)
    (hs : s.dataReady = true) : i = .read := by
  have hchanged : ¬samePart s t .ready := by simp [samePart, ht, hs]
  rcases mem_ownParts_ready (mem_ownParts_of_changed h (by decide) hchanged) with rfl | hi
  · simp [loop_keeps_dataReady h hs] at ht
  · exact hi

theorem transmitting_setters (h : exec i s = .next t) (ht : t.transmitting = true)
    (hs : s.transmitting = false) : ∃ bytes, i = .send bytes := by
  have hchanged : ¬samePart s t .transmission := by simp [samePart, ht, hs]
  rcases mem_ownParts_transmission (mem_ownParts_of_changed h (by decide) hchanged) with
    rfl | rfl | hi
  · obtain rfl := (exec_leaves _ s t h).2
    simp [txTickStep_keeps_idle _ hs] at ht
  · simp [setupTx_keeps_idle h hs] at ht
  · exact hi

theorem transmitting_clearers (h : exec i s = .next t) (ht : t.transmitting = false)
    (hs : s.transmitting = true) : i = .txTick ∨ i = .setupTx := by
  have hchanged : ¬samePart s t .transmission := by simp [samePart, ht, hs]
  rcases mem_ownParts_transmission (mem_ownParts_of_changed h (by decide) hchanged) with
    hi | hi | ⟨bytes, rfl⟩
  · exact .inl hi
  · exact .inr hi
  · simp [send_keeps_transmitting bytes h hs] at ht

/-- Settles O53, element by element: a changed part is one of the operation's own, or receive was
reset. -/
theorem eachElementHasItsWriters : Obligations.EachElementHasItsWriters := by
  unfold Obligations.EachElementHasItsWriters
  intro i s t h
  have hwriter {p : Part} (hp : p ∉ .faultReg :: resetParts) (hchanged : ¬samePart s t p) :=
    mem_ownParts_of_changed h hp hchanged
  exact ⟨edgeCnt_writers h, pulseCnt_writers h, bitRx_setters h, bitRx_clearers h,
    streamRx_setters h, streamRx_clearers h,
    fun hchanged => mem_ownParts_rxBuffer (hwriter (by decide) hchanged), startFlag_clearers h,
    fun hchanged => mem_ownParts_published (hwriter (by decide) hchanged), dataReady_setters h,
    dataReady_clearers h, fun hchanged => mem_ownParts_txFrame (hwriter (by decide) hchanged),
    fun hchanged => mem_ownParts_scheduler (hwriter (by decide) hchanged),
    transmitting_setters h, transmitting_clearers h,
    exec_keeps h (p := .input) (by decide) (input_notMem_ownParts i)⟩

end Sys2Proof.Machine
end

section
/-! The class of a received count and the parity of a transmit Word (spec/30_encoding.md),
settled. -/

namespace Sys2Proof.Machine

theorem pulseClass_noise (c : Cfg) (startFlag : Bool) (threshold cnt : Count)
    (h : cnt.toNat < c.bitMinLen) : pulseClass c startFlag threshold cnt = .noise := by
  rw [pulseClass, if_pos h]

theorem pulseClass_start (c : Cfg) (threshold cnt : Count) (h : c.bitMinLen ≤ cnt.toNat) :
    pulseClass c true threshold cnt =
      if cnt.toNat < c.startbitMinLen then .startNoise else .startBit := by
  rw [pulseClass, if_neg (Nat.not_lt.2 h), if_pos rfl]

theorem pulseClass_normal (c : Cfg) (threshold cnt : Count) (h : c.bitMinLen ≤ cnt.toNat) :
    pulseClass c false threshold cnt = if cnt.toNat < threshold.toNat then .one else .zero := by
  simp only [pulseClass, if_neg (Nat.not_lt.2 h), Bool.false_eq_true, if_false, classify_iff]

/-- Settles O44: BIT_MIN_LEN is tested first, then the start flag picks the second minimum or the
threshold. -/
theorem pulseCountClasses : Obligations.PulseCountClasses := by
  unfold Obligations.PulseCountClasses
  intro c threshold cnt
  refine ⟨fun f => pulseClass_noise c f threshold cnt, fun hbit hnarrow => ?_, fun hwide => ?_,
    fun hbit hbelow => ?_, fun hbit habove => ?_⟩
  · rw [pulseClass_start c threshold cnt hbit, if_pos hnarrow]
  · obtain ⟨hbit, hstart⟩ := max_le_iff.1 hwide
    rw [pulseClass_start c threshold cnt hbit, if_neg (Nat.not_lt.2 hstart)]
  · rw [pulseClass_normal c threshold cnt hbit, if_pos hbelow]
  · rw [pulseClass_normal c threshold cnt hbit, if_neg (Nat.not_lt.2 habove)]

/-- Bits 7..0 of the Word are the byte's, and bit 8 is its parity bit. -/
theorem popcount_pack9 (b : Byte) : popcount (pack9 b) = popcount b + (parityOdd b).toNat := by
  have hlow : ∀ k ∈ List.range 8, (pack9 b).getLsbD k = true ↔ b.getLsbD k = true := by
    intro k hk
    rw [pack9_eq_append, BitVec.getLsbD_append, if_pos (List.mem_range.1 hk)]
  have hhigh : (pack9 b).getLsbD 8 = parityOdd b := by
    rw [pack9_eq_append, BitVec.getLsbD_append, if_neg (Nat.lt_irrefl 8)]
    simp
  rw [popcount, List.range_succ, List.countP_append, List.countP_congr hlow,
    List.countP_singleton, hhigh]
  cases parityOdd b <;> rfl

/-- Settles O41: the parity bit is set exactly where the byte's own count is even. -/
theorem packedWordHasOddParity : Obligations.PackedWordHasOddParity := by
  unfold Obligations.PackedWordHasOddParity
  intro b
  rw [popcount_pack9]
  cases h : parityOdd b with
  | true =>
    have heven := (parityOdd_iff b).1 h
    rw [Bool.toNat_true]
    omega
  | false =>
    have hodd : ¬popcount b % 2 = 0 := by simp [← parityOdd_iff, h]
    rw [Bool.toNat_false]
    omega

end Sys2Proof.Machine
end

section
/-! What LOOP does not read (spec/10_state.md section 3, spec/60_exceptions.md section 3),
settled. -/

namespace Sys2Proof.Machine

/-- `s` with what LOOP does not read taken from `r`: the capture state, the outputs of the last
step, and the latched count, which LOOP reads only with bit-received set. -/
def withUnread (r s : State) : State :=
  { s with
    edgeCnt := r.edgeCnt, btoRun := r.btoRun, btoCnt := r.btoCnt, ftoRun := r.ftoRun
    ftoCnt := r.ftoCnt, pulseCnt := r.pulseCnt, response := r.response, trace := r.trace }

variable {c : Cfg} {s t u : State}

theorem needWords_withUnread (c : Cfg) (n : Nat) (r s : State) :
    needWords c n (withUnread r s) = (needWords c n s).map (withUnread r) := by
  unfold needWords
  split <;> rfl

theorem frameClose_withUnread (c : Cfg) (r s : State) :
    frameClose c (withUnread r s) = (frameClose c s).map (withUnread r) := by
  by_cases hidx : s.wordIdx = 0
  · have hidx' : (withUnread r s).wordIdx = 0 := hidx
    rw [frameClose, if_pos hidx', frameClose, if_pos hidx]
    rfl
  · have hidx' : (withUnread r s).wordIdx ≠ 0 := hidx
    rw [frameClose, if_neg hidx', frameClose, if_neg hidx, ← needWords_withUnread]
    rfl

theorem frameBranch_withUnread (c : Cfg) (r s : State) :
    frameBranch c (withUnread r s) = (frameBranch c s).map (withUnread r) := by
  by_cases hstream : s.streamRx = true
  · have hstream' : (withUnread r s).streamRx = true := hstream
    rw [frameBranch, if_pos hstream', frameBranch, if_pos hstream, ← frameClose_withUnread]
    rfl
  · have hstream' : ¬(withUnread r s).streamRx = true := hstream
    rw [frameBranch, if_neg hstream', frameBranch, if_neg hstream]
    rfl

theorem assembleBit_withUnread (c : Cfg) (b : Bool) (r s : State) :
    assembleBit c b (withUnread r s) = withUnread r (assembleBit c b s) := by
  by_cases h : s.bitIdx = 8
  · rw [assembleBit_parity c b s h, assembleBit_parity c b (withUnread r s) h]
    rfl
  · rw [assembleBit_data c b s h, assembleBit_data c b (withUnread r s) h]
    rfl

theorem bitCases_withUnread (c : Cfg) (cnt : Count) (r s : State) :
    bitCases c cnt (withUnread r s) = (bitCases c cnt s).map (withUnread r) := by
  have hclass : pulseClass c (withUnread r s).startFlag (withUnread r s).threshold cnt =
      pulseClass c s.startFlag s.threshold cnt := rfl
  unfold bitCases
  rw [hclass]
  cases pulseClass c s.startFlag s.threshold cnt
  case one | zero =>
    simp only [assembleBit_withUnread, needWords_withUnread]
    rfl
  all_goals rfl

theorem bitBranch_withUnread (c : Cfg) (r s : State)
    (h : s.bitRx = false ∨ r.pulseCnt = s.pulseCnt) :
    bitBranch c (withUnread r s) = (bitBranch c s).map (withUnread r) := by
  by_cases hbit : s.bitRx = true
  · have hbit' : (withUnread r s).bitRx = true := hbit
    have hcnt : (withUnread r s).pulseCnt = s.pulseCnt := h.resolve_left (by simp [hbit])
    rw [bitBranch, if_pos hbit', bitBranch, if_pos hbit, hcnt, ← bitCases_withUnread]
    rfl
  · have hbit' : ¬(withUnread r s).bitRx = true := hbit
    rw [bitBranch, if_neg hbit', bitBranch, if_neg hbit]
    rfl

/-- The frame branch leaves bit-received and the latched count as they are. -/
theorem frameBranch_bit (h : frameBranch c s = .ok t) :
    t.bitRx = s.bitRx ∧ t.pulseCnt = s.pulseCnt := by
  rcases frameBranch_cases c s t h with ⟨-, rfl⟩ | ⟨-, -, rfl⟩
  · exact ⟨rfl, rfl⟩
  · exact ⟨closed_bitRx c s, closed_pulseCnt c s⟩

/-- LOOP carries what it does not read through to what it leaves. -/
theorem loopStep_withUnread (r : State) (h : s.bitRx = false ∨ r.pulseCnt = s.pulseCnt)
    (hu : loopStep c s = .ok u) : loopStep c (withUnread r s) = .ok (withUnread r u) := by
  obtain ⟨s1, hframe, hbit⟩ := loopStep_cases c s u hu
  obtain ⟨hbitRx, hpulseCnt⟩ := frameBranch_bit hframe
  have hframe' : frameBranch c (withUnread r s) = .ok (withUnread r s1) := by
    rw [frameBranch_withUnread, hframe]
    rfl
  have hbit' : bitBranch c (withUnread r s1) = .ok (withUnread r u) := by
    rw [bitBranch_withUnread c r s1 (by rwa [hbitRx, hpulseCnt]), hbit]
    rfl
  rw [loopStep, hframe']
  exact hbit'

theorem loopStep_frame_parts (h : loopStep c s = .ok u) : UnchangedBut loopParts s u := by
  obtain ⟨s1, hframe, hbit⟩ := loopStep_cases c s u h
  exact (frameBranch_frame hframe).trans (bitBranch_frame hbit)

/-- A LOOP that answers in a set-up block, by what its branches leave. -/
theorem loopStep_of_exec_loop (hconf : s.rxConfigured = true) (h : exec .loop s = .next t) :
    s.fault = none ∧
      ∃ u, loopStep Config.cfg s = .ok u ∧ t = respond [Instr.opcode .loop] [] u := by
  rw [exec_eq_execOn] at h
  have hfault := execOn_next_running _ _ _ _ h
  rw [execOn_loop _ s hfault] at h
  rcases loopCommand_cases _ s t h with ⟨hunconf, -⟩ | ⟨-, hu⟩
  · simp [hconf] at hunconf
  · exact ⟨hfault, hu⟩

/-! ### The latched count with bit-received clear (R23) -/

theorem withUnread_pulseCnt (v : Count) (h : samePart s u .capture) (ops bytes : List Byte) :
    respond ops bytes (withUnread { s with pulseCnt := v } u) =
      { respond ops bytes u with pulseCnt := v } := by
  obtain ⟨hedgeCnt, hbtoRun, hbtoCnt, hftoRun, hftoCnt⟩ := h
  simp only [withUnread, respond, hedgeCnt, hbtoRun, hbtoCnt, hftoRun, hftoCnt]

/-- Settles O25: with bit-received clear the latched count is among what LOOP does not read. -/
theorem loopIgnoresAnUnflaggedPulseCount : Obligations.LoopIgnoresAnUnflaggedPulseCount := by
  unfold Obligations.LoopIgnoresAnUnflaggedPulseCount
  intro s t v hbit h
  have hfault : s.fault = none := (exec_leaves _ s t h).1
  by_cases hconf : s.rxConfigured = true
  · obtain ⟨-, u, hu, rfl⟩ := loopStep_of_exec_loop hconf h
    have hcapture : samePart s u .capture := loopStep_frame_parts hu .capture (by decide)
    have hloop := loopStep_withUnread { s with pulseCnt := v } (.inl hbit) hu
    rw [← withUnread_pulseCnt v hcapture, exec_eq_execOn]
    exact execOn_loop_of _ { s with pulseCnt := v } _ hfault hconf hloop
  · have hunconf : s.rxConfigured = false := Bool.eq_false_of_not_eq_true hconf
    rw [exec_eq_execOn] at h ⊢
    cases (execOn_loop_unconfigured _ s hfault hunconf).symm.trans h
    exact execOn_loop_unconfigured _ { s with pulseCnt := v } hfault hunconf

/-! ### An edge and a LOOP (R157) -/

theorem edgeStep_eq_withUnread (c : Cfg) (s : State) (ops bytes : List Byte) :
    respond ops bytes (edgeStep c s) = withUnread (respond ops bytes (edgeStep c s)) s := by
  unfold edgeStep
  split <;> rfl

/-- An edge does the same in any state with the same capture state and receive on or off alike. -/
theorem edgeStep_of_same_capture (hcapture : samePart s u .capture)
    (henabled : samePart s u .enabled) (hlatch : samePart s u .latch) (ops bytes : List Byte) :
    respond ops bytes (edgeStep c u) =
      withUnread (respond ops bytes (edgeStep c s)) u := by
  obtain ⟨hedgeCnt, hbtoRun, hbtoCnt, hftoRun, hftoCnt⟩ := hcapture
  have henabled : u.rxEnabled = s.rxEnabled := henabled
  have hlatch : u.pulseCnt = s.pulseCnt := hlatch
  unfold edgeStep
  rw [henabled]
  split <;>
    simp only [withUnread, respond, henabled, hedgeCnt, hbtoRun, hbtoCnt, hftoRun, hftoCnt, hlatch]

theorem edgeStep_respond (c : Cfg) (s : State) (ops bytes : List Byte) :
    edgeStep c (respond ops bytes s) = respond ops bytes (edgeStep c s) := by
  unfold edgeStep
  rw [respond_rxEnabled]
  split <;> rfl

/-- Settles O54: an edge writes only what LOOP does not read and reads only what LOOP does not
write, so both orders leave the same block but for the outputs of the last step. -/
theorem edgeCommutesWithLoop : Obligations.EdgeCommutesWithLoop := by
  unfold Obligations.EdgeCommutesWithLoop
  intro s a b hconf ha hb
  obtain ⟨hfault, u, hu, rfl⟩ := loopStep_of_exec_loop hconf hb
  obtain rfl := (exec_leaves _ s a ha).2
  have hframe := loopStep_frame_parts hu
  have hlatch : (edgeStep Config.cfg s).pulseCnt = s.pulseCnt :=
    edgeStep_frame _ s .latch (by decide)
  have hloop := loopStep_withUnread (respond [Instr.opcode .edge] [] (edgeStep Config.cfg s))
    (.inr hlatch) hu
  rw [← edgeStep_eq_withUnread, ← edgeStep_of_same_capture (hframe _ (by decide))
    (hframe _ (by decide)) (hframe _ (by decide))] at hloop
  have hfault' : (edgeStep Config.cfg s).fault = none := (edgeStep_fault _ s).trans hfault
  have hconf' : (edgeStep Config.cfg s).rxConfigured = true :=
    (edgeStep_frame _ s .setup (by decide)).1.trans hconf
  have hufault : u.fault = none := (hframe .faultReg (by decide)).trans hfault
  refine ⟨_, _, (exec_eq_execOn _ _).trans (execOn_loop_of _ _ _ hfault' hconf' hloop),
    (exec_eq_execOn _ _).trans (execOn_edge _ _ hufault), ?_⟩
  rw [edgeStep_respond]
  exact (unchangedBut_refl [] _).respond _ _

end Sys2Proof.Machine
end

section
/-! The corner cases of receive decode (spec/42_rx_decode.md), settled. -/

namespace Sys2Proof.Machine

/-! ### A frame end with a pending bit (R107) -/

/-- The parts a LOOP that closes a frame may write where a bit is pending. -/
def closeWithBitParts : List Part :=
  [.streamFlag, .bitFlag, .perFrame, .published, .ready]

theorem closed_clearBit_frame (c : Cfg) (s : State) :
    UnchangedBut closeWithBitParts s (clearBit (closed c s)) :=
  ((closed_frame c s).mono (by decide)).trans ((clearBit_frame _).mono (by decide))

/-- LOOP with both flags and a count below one of the minima: the closed frame alone. -/
theorem loopStep_both_discarded (c : Cfg) (s : State) (hstream : s.streamRx = true)
    (hbit : s.bitRx = true) (hidx : s.wordIdx.toNat ≤ c.maxWordlen)
    (h : s.pulseCnt.toNat < max c.bitMinLen c.startbitMinLen) :
    loopStep c s = .ok (clearBit (closed c s)) := by
  rw [loopStep_both c s hstream hbit hidx]
  rcases lt_max_iff.1 h with hnoise | hnarrow
  · exact bitCases_noise c _ _ hnoise
  · exact bitCases_startNoise c _ _ (closed_startFlag c s) hnarrow

/-- LOOP with both flags and a count that is wide enough: a start bit of the next frame. -/
theorem loopStep_both_startBit (c : Cfg) (s : State) (hstream : s.streamRx = true)
    (hbit : s.bitRx = true) (hidx : s.wordIdx.toNat ≤ c.maxWordlen)
    (h : ¬s.pulseCnt.toNat < max c.bitMinLen c.startbitMinLen) :
    loopStep c s = .ok (loadThreshold c s.pulseCnt (clearBit (closed c s))) := by
  obtain ⟨hmin, hstart⟩ := max_le_iff.1 (Nat.not_lt.1 h)
  rw [loopStep_both c s hstream hbit hidx]
  exact bitCases_startBit c _ _ (closed_startFlag c s) hmin hstart

/-- Settles O21: both LOOPs publish in the frame close, which sets the start flag, so the pending
bit is then discarded or taken as a start bit. -/
theorem pendingBitBecomesAStartCandidate : Obligations.PendingBitBecomesAStartCandidate := by
  unfold Obligations.PendingBitBecomesAStartCandidate
  intro s hfault hconf hstream hbit hidx
  have hwithout := execOn_loop_of Config.cfg (clearBit s) _ hfault hconf
    (loopStep_frame _ (clearBit s) hstream rfl hidx)
  rw [closed_clearBit] at hwithout
  have hwith (u : State) (h : loopStep Config.cfg s = .ok u) :=
    (exec_eq_execOn _ _).trans (execOn_loop_of _ s u hfault hconf h)
  have hdiscarded := loopStep_both_discarded Config.cfg s hstream hbit hidx
  have hstartBit := loopStep_both_startBit Config.cfg s hstream hbit hidx
  have hframe := closed_clearBit_frame Config.cfg s
  have hstreamClear : (closed Config.cfg s).streamRx = false := closed_streamRx _ s
  obtain ⟨hthreshold, hbitIdx, hwordIdx, hstart, hvalid⟩ := closed_perFrameReset Config.cfg s
  generalize closed Config.cfg s = v at *
  by_cases hshort : s.pulseCnt.toNat < max Config.cfg.bitMinLen Config.cfg.startbitMinLen
  · refine ⟨_, _, hwith _ (hdiscarded hshort), (exec_eq_execOn _ _).trans hwithout,
      samePart_refl _ _, samePart_refl _ _, hstreamClear, rfl, hbitIdx, hwordIdx, hvalid,
      hframe.respond _ _, ?_⟩
    rw [if_pos hshort]
    exact ⟨hthreshold, hstart⟩
  · have hload := loadThreshold_frame Config.cfg s.pulseCnt (clearBit v)
    refine ⟨_, _, hwith _ (hstartBit hshort), (exec_eq_execOn _ _).trans hwithout,
      hload .published (by decide), hload .ready (by decide), hstreamClear, rfl, hbitIdx,
      hwordIdx, hvalid, (hframe.trans (hload.mono (by decide))).respond _ _, ?_⟩
    rw [if_neg hshort]
    exact ⟨thresholdOf_toNat _ Config_wf _, rfl⟩

/-! ### A frame that fills the buffer (R106) -/

/-- The parity bit of the last Word wraps the word index. -/
theorem parityBit_wordIdx_wraps (c : Cfg) (b : Bool) (s : State)
    (h : c.maxWordlen ≤ s.wordIdx.toNat + 1) : (parityBit c b s).wordIdx = 0 :=
  if_pos h

/-- A LOOP at a frame end without a Word publishes nothing. -/
theorem exec_loop_publishes_nothing (s : State) (hfault : s.fault = none)
    (hconf : s.rxConfigured = true) (hstream : s.streamRx = true) (hbit : s.bitRx = false)
    (hidx : s.wordIdx = 0) :
    ∃ u, exec .loop s = .next u ∧ samePart s u .published ∧ samePart s u .ready := by
  have hle : s.wordIdx.toNat ≤ Config.cfg.maxWordlen := by simp [hidx]
  obtain ⟨hpublished, hready⟩ := closed_publishes_nothing Config.cfg s hidx
  exact ⟨_, (exec_eq_execOn _ _).trans
    (execOn_loop_of _ s _ hfault hconf (loopStep_frame _ s hstream hbit hle)), hpublished, hready⟩

/-- Settles O22: the parity bit of the last Word leaves a frame without a Word, which the frame
close does not publish. -/
theorem fullBufferWrapsAndPublishesNothing :
    Obligations.FullBufferWrapsAndPublishesNothing := by
  unfold Obligations.FullBufferWrapsAndPublishesNothing
  intro s hfault hconf hstream hbit hstart hpos hlast hmin
  have hmax := maxWordlen_ge
  have hstep := bitCases_normal Config.cfg s.pulseCnt (clearBit s) hstart hmin
    (by rw [clearBit_wordIdx]; omega)
  rw [assembleBit_parity _ _ (clearBit s) hpos] at hstep
  have hwraps : (parityBit Config.cfg (classify s.pulseCnt s.threshold) (clearBit s)).wordIdx = 0 :=
    parityBit_wordIdx_wraps _ _ (clearBit s) (by rw [clearBit_wordIdx]; omega)
  have hfirst := execOn_loop_bit _ s _ hfault hconf hstream hbit hstep
  obtain ⟨u, hu, hpublished, hready⟩ := exec_loop_publishes_nothing
    { respond [Instr.opcode .loop] []
        (parityBit Config.cfg (classify s.pulseCnt s.threshold) (clearBit s)) with
      streamRx := true } hfault hconf rfl rfl hwraps
  exact ⟨_, u, (exec_eq_execOn _ _).trans hfirst, hwraps, hu, hpublished, hready⟩

end Sys2Proof.Machine
end

section
/-! The bit window (spec/41_rx_capture.md, "Bit window, end to end"), settled. -/

namespace Sys2Proof.Machine

variable {c : Cfg} {s t u : State}

/-! ### Sequences of operations -/

theorem runOps_cons_of {i : Instr} {is : List Instr} (h : execOn c i s = .next t) :
    runOps c (i :: is) s = runOps c is t := by
  rw [runOps, h]

theorem runOps_append_of {xs ys : List Instr} (hx : runOps c xs s = .next t)
    (hy : runOps c ys t = .next u) : runOps c (xs ++ ys) s = .next u :=
  (runOps_append c xs ys s t hx).trans hy

/-! ### Edges (PULSE n) -/

/-- An edge of an enabled block. -/
theorem execOn_edge_enabled (hfault : s.fault = none) (henabled : s.rxEnabled = true) :
    ∃ t, execOn c .edge s = .next t ∧ UnchangedBut [.capture] s t ∧
      t.edgeCnt = s.edgeCnt + 1 ∧ t.btoRun = true ∧ t.btoCnt = c.tBit ∧ t.ftoRun = true ∧
      t.ftoCnt = c.tFrame := by
  obtain ⟨hedgeCnt, hbtoCnt, hbtoRun, hftoCnt, hftoRun⟩ := edgeStep_of_enabled c s henabled
  exact ⟨_, execOn_edge c s hfault, (edgeStep_frame c s).respond _ _, hedgeCnt, hbtoRun, hbtoCnt,
    hftoRun, hftoCnt⟩

/-- n edges: each counts, and the last one leaves both timers full. -/
theorem runOps_pulse {n : Nat} (hfault : s.fault = none) (henabled : s.rxEnabled = true)
    (hpos : 1 ≤ n) :
    ∃ t, runOps c (pulseOps n) s = .next t ∧ UnchangedBut [.capture] s t ∧
      t.edgeCnt = s.edgeCnt + BitVec.ofNat 16 n ∧ t.btoRun = true ∧ t.btoCnt = c.tBit ∧
      t.ftoRun = true ∧ t.ftoCnt = c.tFrame := by
  induction n, hpos using Nat.le_induction generalizing s with
  | base =>
    obtain ⟨t, hexec, ht⟩ := execOn_edge_enabled hfault henabled (c := c)
    exact ⟨t, (runOps_one c .edge s).trans hexec, ht⟩
  | succ n _ ih =>
    obtain ⟨t, hexec, hframe, hedgeCnt, -⟩ := execOn_edge_enabled hfault henabled (c := c)
    obtain ⟨u, hrun, hframe', hedgeCnt', htimers⟩ :=
      ih (s := t) ((hframe .faultReg (by decide)).trans hfault)
        ((hframe .enabled (by decide)).trans henabled)
    refine ⟨u, (runOps_cons_of hexec).trans hrun, hframe.trans hframe', ?_, htimers⟩
    rw [hedgeCnt', hedgeCnt, BitVec.ofNat_add, BitVec.add_assoc, BitVec.add_comm 1]
    rfl

/-! ### Quiet ticks (QUIET n) -/

/-- An RXTICK on which no timer expires. -/
theorem rxTickStep_of_quiet (hbit : timerFires s.btoRun s.btoCnt = false)
    (hframe : timerFires s.ftoRun s.ftoCnt = false) : rxTickStep s = countTimers s := by
  simp [rxTickStep, hbit, hframe]

/-- An RXTICK on which the bit timer alone expires. -/
theorem rxTickStep_of_bit (hbit : timerFires s.btoRun s.btoCnt = true)
    (hframe : timerFires s.ftoRun s.ftoCnt = false) :
    rxTickStep s = bitTimeout (countTimers s) := by
  simp [rxTickStep, hbit, hframe]

/-- An RXTICK on which the frame timer alone expires. -/
theorem rxTickStep_of_frame (hbit : timerFires s.btoRun s.btoCnt = false)
    (hframe : timerFires s.ftoRun s.ftoCnt = true) :
    rxTickStep s = frameTimeout (countTimers s) := by
  simp [rxTickStep, hbit, hframe]

/-- `t` is `s` after `n` quiet ticks on which neither timer expired. -/
def TickedDown (n : Nat) (s t : State) : Prop :=
  UnchangedBut [.capture] s t ∧ t.edgeCnt = s.edgeCnt ∧
    t.btoRun = s.btoRun ∧ (s.btoRun = true → t.btoCnt + n = s.btoCnt) ∧
    t.ftoRun = s.ftoRun ∧ (s.ftoRun = true → t.ftoCnt + n = s.ftoCnt)

theorem execOn_rxTick_quiet (hfault : s.fault = none) (hbto : s.btoRun = true → 1 < s.btoCnt)
    (hfto : s.ftoRun = true → 1 < s.ftoCnt) :
    ∃ t, execOn c .rxTick s = .next t ∧ TickedDown 1 s t := by
  have hquiet (run : Bool) (cnt : Nat) (h : run = true → 1 < cnt) :
      timerFires run cnt = false ∧ (run = true → timerCount run cnt + 1 = cnt) := by
    cases run <;> simp [timerFires, timerCount] at h ⊢
    omega
  obtain ⟨hb, hbcnt⟩ := hquiet _ _ hbto
  obtain ⟨hf, hfcnt⟩ := hquiet _ _ hfto
  refine ⟨_, execOn_rxTick c s hfault, ?_⟩
  rw [rxTickStep_of_quiet hb hf]
  exact ⟨(countTimers_frame s).respond _ _, rfl, rfl, hbcnt, rfl, hfcnt⟩

theorem runOps_quiet {n : Nat} (hfault : s.fault = none) (hbto : s.btoRun = true → n < s.btoCnt)
    (hfto : s.ftoRun = true → n < s.ftoCnt) :
    ∃ t, runOps c (quietOps n) s = .next t ∧ TickedDown n s t := by
  induction n generalizing s with
  | zero => exact ⟨s, rfl, unchangedBut_refl _ s, rfl, rfl, fun _ => rfl, rfl, fun _ => rfl⟩
  | succ n ih =>
    obtain ⟨t, hexec, hframe, hedge, hbrun, hbcnt, hfrun, hfcnt⟩ :=
      execOn_rxTick_quiet (c := c) hfault (fun h => by have := hbto h; omega)
        (fun h => by have := hfto h; omega)
    obtain ⟨u, hrun, hframe', hedge', hbrun', hbcnt', hfrun', hfcnt'⟩ :=
      ih (s := t) ((hframe .faultReg (by decide)).trans hfault)
        (fun h => by have := hbto (hbrun ▸ h); have := hbcnt (hbrun ▸ h); omega)
        (fun h => by have := hfto (hfrun ▸ h); have := hfcnt (hfrun ▸ h); omega)
    refine ⟨u, (runOps_cons_of hexec).trans hrun, hframe.trans hframe', hedge'.trans hedge,
      hbrun'.trans hbrun, fun h => ?_, hfrun'.trans hfrun, fun h => ?_⟩
    · have := hbcnt' (hbrun.trans h)
      have := hbcnt h
      omega
    · have := hfcnt' (hfrun.trans h)
      have := hfcnt h
      omega

/-! ### The window and the frame end -/

theorem timerFires_of_last_tick {run : Bool} {cnt : Nat} (hrun : run = true) (hcnt : cnt = 1) :
    timerFires run cnt = true :=
  (timerFires_iff run cnt fun _ => hcnt.ge).2 ⟨hrun, hcnt⟩

/-- The RXTICK that ends a bit window, with the frame timer further behind. -/
theorem execOn_rxTick_bit (hfault : s.fault = none) (hbrun : s.btoRun = true)
    (hbcnt : s.btoCnt = 1) (hfrun : s.ftoRun = true) (hfcnt : 1 < s.ftoCnt) :
    ∃ t, execOn c .rxTick s = .next t ∧ UnchangedBut [.capture, .latch, .bitFlag] s t ∧
      t.pulseCnt = s.edgeCnt ∧ t.bitRx = true ∧ t.edgeCnt = 0 ∧ t.btoRun = false ∧
      t.ftoRun = true ∧ t.ftoCnt = s.ftoCnt - 1 := by
  have hquiet : timerFires s.ftoRun s.ftoCnt = false := by
    rw [hfrun]
    simp [timerFires, timerCount]
    omega
  have htick := execOn_rxTick c s hfault
  rw [rxTickStep_of_bit (timerFires_of_last_tick hbrun hbcnt) hquiet] at htick
  have hcount : UnchangedBut [.capture, .latch, .bitFlag] s (countTimers s) :=
    (countTimers_frame s).mono (by decide)
  refine ⟨_, htick, (hcount.trans (bitTimeout_frame _)).respond _ _, rfl, rfl, rfl, rfl, hfrun, ?_⟩
  rw [respond_ftoCnt, bitTimeout_ftoCnt, countTimers_ftoCnt, hfrun]
  rfl

/-- The RXTICK that ends a frame, with the bit timer stopped. -/
theorem execOn_rxTick_frame (hfault : s.fault = none) (hbrun : s.btoRun = false)
    (hfrun : s.ftoRun = true) (hfcnt : s.ftoCnt = 1) :
    ∃ t, execOn c .rxTick s = .next t ∧ UnchangedBut [.capture, .streamFlag] s t ∧
      t.streamRx = true ∧ t.ftoRun = false ∧ t.edgeCnt = s.edgeCnt ∧ t.btoRun = false := by
  have hquiet : timerFires s.btoRun s.btoCnt = false := by
    rw [hbrun]
    rfl
  have htick := execOn_rxTick c s hfault
  rw [rxTickStep_of_frame hquiet (timerFires_of_last_tick hfrun hfcnt)] at htick
  have hcount : UnchangedBut [.capture, .streamFlag] s (countTimers s) :=
    (countTimers_frame s).mono (by decide)
  exact ⟨_, htick, (hcount.trans (frameTimeout_frame _)).respond _ _, rfl, rfl, rfl, hbrun⟩

theorem runOps_quiet_succ {n : Nat} (hquiet : runOps c (quietOps n) s = .next t)
    (hlast : execOn c .rxTick t = .next u) : runOps c (quietOps (n + 1)) s = .next u := by
  rw [quietOps, List.replicate_succ']
  exact runOps_append_of hquiet ((runOps_one c _ t).trans hlast)

/-- `t` is `s` after a bit window of `n` edges (R94). -/
structure WindowEnded (c : Cfg) (n : Nat) (s t : State) : Prop where
  frame : UnchangedBut [.capture, .latch, .bitFlag] s t
  pulseCnt : t.pulseCnt.toNat = n
  bitRx : t.bitRx = true
  edgeCnt : t.edgeCnt = 0
  btoRun : t.btoRun = false
  ftoRun : t.ftoRun = true
  ftoCnt : t.ftoCnt = c.tFrame - c.tBit

/-- RXBIT n on an enabled block that has counted no edge yet. -/
theorem runOps_rxbit (hwf : c.WF) {n : Nat} (hfault : s.fault = none)
    (henabled : s.rxEnabled = true) (hedge : s.edgeCnt = 0) (hpos : 1 ≤ n) (hn : n < 65536) :
    ∃ t, runOps c (rxbitOps c n) s = .next t ∧ WindowEnded c n s t := by
  obtain ⟨-, -, -, -, -, -, -, htBit, hlt, -⟩ := hwf
  obtain ⟨k, hk⟩ : ∃ k, c.tBit = k + 1 := ⟨c.tBit - 1, by omega⟩
  obtain ⟨t, hpulse, hframe, hcnt, hbrun, hbcnt, hfrun, hfcnt⟩ :=
    runOps_pulse (c := c) hfault henabled hpos
  obtain ⟨u, hquiet, hframe', hcnt', hbrun', hbcnt', hfrun', hfcnt'⟩ :=
    runOps_quiet (c := c) (s := t) (n := k) ((hframe .faultReg (by decide)).trans hfault)
      (fun _ => by omega) (fun _ => by omega)
  have hbcnt' := hbcnt' hbrun
  have hfcnt' := hfcnt' hfrun
  have hu : UnchangedBut [.capture] s u := hframe.trans hframe'
  obtain ⟨v, hlast, hframe'', hpulseCnt, hbit, hedge', hbto, hfto, hftoCnt⟩ :=
    execOn_rxTick_bit (c := c) ((hu .faultReg (by decide)).trans hfault) (hbrun'.trans hbrun)
      (by omega) (hfrun'.trans hfrun) (by omega)
  refine ⟨v, runOps_append_of hpulse (hk ▸ runOps_quiet_succ hquiet hlast), ?_⟩
  refine ⟨(hu.mono (by decide)).trans hframe'', ?_, hbit, hedge', hbto, hfto, by omega⟩
  rw [hpulseCnt, hcnt', hcnt, hedge, zero_add, BitVec.toNat_ofNat, Nat.mod_eq_of_lt hn]

/-- ENDFRAME after a bit window. -/
theorem runOps_endframe (hwf : c.WF) (hfault : s.fault = none) (hbto : s.btoRun = false)
    (hfto : s.ftoRun = true) (hcnt : s.ftoCnt = c.tFrame - c.tBit) :
    ∃ u, runOps c (endframeOps c) s = .next u ∧ UnchangedBut [.capture, .streamFlag] s u ∧
      u.streamRx = true ∧ u.ftoRun = false ∧ u.edgeCnt = s.edgeCnt ∧ u.btoRun = false := by
  obtain ⟨-, -, -, -, -, -, -, htBit, hlt, -⟩ := hwf
  obtain ⟨k, hk⟩ : ∃ k, c.tFrame - c.tBit = k + 1 := ⟨c.tFrame - c.tBit - 1, by omega⟩
  obtain ⟨t, hquiet, hframe, hedge, hbrun, -, hfrun, hfcnt⟩ :=
    runOps_quiet (c := c) (n := k) hfault (by simp [hbto]) (fun _ => by omega)
  have hfcnt := hfcnt hfto
  obtain ⟨u, hlast, hframe', hstream, hfto', hedge', hbto'⟩ :=
    execOn_rxTick_frame (c := c) ((hframe .faultReg (by decide)).trans hfault)
      (hbrun.trans hbto) (hfrun.trans hfto) (by omega)
  refine ⟨u, ?_, (hframe.mono (by decide)).trans hframe', hstream, hfto', hedge'.trans hedge,
    hbto'⟩
  rw [endframeOps, hk]
  exact runOps_quiet_succ hquiet hlast

/-- Settles O15: the last edge restarts both timers from full, so T_BIT ticks end the window, and
the frame timer has the rest of T_FRAME left. -/
theorem bitWindowLatchesItsEdges : Obligations.BitWindowLatchesItsEdges := by
  unfold Obligations.BitWindowLatchesItsEdges
  intro c s n hwf hfault henabled hedge hpos hn
  obtain ⟨t, hwindow, ht⟩ := runOps_rxbit hwf hfault henabled hedge hpos hn
  obtain ⟨u, hend, hframe, hstream, hfto, hedgeCnt, hbto⟩ :=
    runOps_endframe hwf ((ht.frame .faultReg (by decide)).trans hfault) ht.btoRun ht.ftoRun
      ht.ftoCnt
  exact ⟨t, hwindow, ht.frame, ht.pulseCnt, ht.bitRx, ht.edgeCnt, ht.btoRun, ht.ftoRun, ht.ftoCnt,
    u, hend, hframe, hstream, hfto, hedgeCnt.trans ht.edgeCnt, hbto⟩

end Sys2Proof.Machine
end

section
/-! The length of a transmission (spec/43_tx.md section 2, R127), settled. -/

namespace Sys2Proof.Machine

variable {c : Cfg} {s t : State}

/-! ### The ticks a block that transmits has left -/

/-- The TXTICKs of the pause and the burst of each bit. -/
def symbolTicks (c : Cfg) (bits : List Bool) : Nat :=
  (bits.map fun b =>
    (c.pausePulsenum + 1) + ((if b then c.onePulsenum else c.zeroPulsenum) + 1)).sum

/-- The TXTICKs from a load phase to the one that stops, the stop included, with these bits still
to be sent. -/
def phaseTicks (c : Cfg) : TxNext → List Bool → Nat
  | .start, bits => (c.startbitPulsenum + 1) + symbolTicks c bits + 1
  | .pause, bits => symbolTicks c bits + 1
  | .data, [] => 1
  | .data, b :: bits =>
    ((if b then c.onePulsenum else c.zeroPulsenum) + 1) + symbolTicks c bits + 1

/-- Bit `k` of the transmit buffer (R47). -/
def bufferBit (s : State) (k : Nat) : Bool := (bufRead s.txWords (k / 9)).getLsbD (k % 9)

/-- The bits from the cursor to the end of the frame. -/
def bitsLeft (s : State) : List Bool :=
  (List.range' s.txCursor.toNat (s.txBitLen.toNat - s.txCursor.toNat)).map (bufferBit s)

/-- The TXTICKs to the transmit stop, the stop included. -/
def ticksLeft (c : Cfg) (s : State) : Nat :=
  s.txRemaining.toNat + phaseTicks c s.txNext (bitsLeft s)

/-- A block in a transmission: the burst that is to follow the start or a pause has its bit. -/
structure Sending (c : Cfg) (s : State) : Prop where
  running : s.fault = none
  timer : s.txTimerRun = true
  transmitting : s.transmitting = true
  txEnable : s.txEnableOut = true
  bitLenRange : s.txBitLen.toNat ≤ 9 * c.maxWordlen
  bitFollows : s.txNext ≠ .pause → s.txCursor.toNat < s.txBitLen.toNat

@[simp] theorem symbolTicks_cons (c : Cfg) (b : Bool) (bits : List Bool) :
    symbolTicks c (b :: bits) =
      (c.pausePulsenum + 1) + ((if b then c.onePulsenum else c.zeroPulsenum) + 1) +
        symbolTicks c bits := by
  simp [symbolTicks]

theorem phaseTicks_pos (c : Cfg) (next : TxNext) (bits : List Bool) :
    1 ≤ phaseTicks c next bits := by
  cases next with
  | start | pause => exact Nat.le_add_left _ _
  | data => cases bits <;> exact Nat.le_add_left _ _

theorem bitsLeft_of_end (h : s.txBitLen.toNat ≤ s.txCursor.toNat) : bitsLeft s = [] := by
  simp [bitsLeft, Nat.sub_eq_zero_of_le h]

/-- A data burst takes the first of the bits that are left. -/
theorem bitsLeft_of_more (c : Cfg) (h : s.txCursor.toNat < s.txBitLen.toNat) :
    bitsLeft s = txBit s.txWords s.txCursor :: bitsLeft (loadData c s) := by
  have hcount : s.txBitLen.toNat - s.txCursor.toNat =
      s.txBitLen.toNat - (s.txCursor.toNat + 1) + 1 := by omega
  rw [bitsLeft, bitsLeft, loadData_txCursor_toNat c s h, loadData_txBitLen, hcount,
    List.range'_succ]
  rfl

theorem txDone_of_end (h : s.txBitLen.toNat ≤ s.txCursor.toNat) : txDone c s = true :=
  (txDone_iff c s).2 (.inl h)

theorem Sending.not_done (h : Sending c s) (hmore : s.txCursor.toNat < s.txBitLen.toNat) :
    txDone c s = false := by
  have hlen := h.bitLenRange
  rw [← Bool.not_eq_true, txDone_iff]
  omega

/-- A step's outputs are no part of the transmission. -/
theorem Sending.respond (h : Sending c s) (ops bytes : List Byte) :
    Sending c (respond ops bytes s) :=
  { h with }

theorem ticksLeft_respond (c : Cfg) (ops bytes : List Byte) (s : State) :
    ticksLeft c (respond ops bytes s) = ticksLeft c s :=
  rfl

/-! ### One tick -/

/-- At a load phase nothing is left of the symbol before. -/
theorem ticksLeft_of_no_ticks (hrem : s.txRemaining = 0) :
    ticksLeft c s = phaseTicks c s.txNext (bitsLeft s) := by
  rw [ticksLeft, hrem]
  exact Nat.zero_add _

theorem Sending.countdown (h : Sending c s) (hrem : s.txRemaining ≠ 0) :
    Sending c (countdown s) ∧ ticksLeft c (countdown s) + 1 = ticksLeft c s := by
  refine ⟨{ h with }, ?_⟩
  have hpos : s.txRemaining.toNat ≠ 0 := fun hz => hrem (BitVec.eq_of_toNat_eq hz)
  have hbits : bitsLeft (Machine.countdown s) = bitsLeft s := rfl
  rw [ticksLeft, ticksLeft, countdown_txRemaining_toNat s hrem, countdown_txNext, hbits]
  omega

theorem Sending.loadStart (h : Sending c s) (hwf : c.WF) (hrem : s.txRemaining = 0)
    (hnext : s.txNext = .start) :
    Sending c (loadStart c s) ∧ ticksLeft c (loadStart c s) + 1 = ticksLeft c s := by
  refine ⟨{ h with bitFollows := fun hne => absurd rfl hne }, ?_⟩
  have hbits : bitsLeft (Machine.loadStart c s) = bitsLeft s := rfl
  rw [ticksLeft_of_no_ticks hrem, ticksLeft, loadStart_txRemaining_toNat c hwf, loadStart_txNext,
    hbits, hnext, phaseTicks, phaseTicks]
  omega

theorem Sending.loadPause (h : Sending c s) (hwf : c.WF) (hrem : s.txRemaining = 0)
    (hnext : s.txNext = .pause) (hmore : s.txCursor.toNat < s.txBitLen.toNat) :
    Sending c (loadPause c s) ∧ ticksLeft c (loadPause c s) + 1 = ticksLeft c s := by
  refine ⟨{ h with bitFollows := fun _ => hmore }, ?_⟩
  have hbits : bitsLeft (Machine.loadPause c s) = bitsLeft s := rfl
  rw [ticksLeft_of_no_ticks hrem, ticksLeft, loadPause_txRemaining_toNat c hwf, loadPause_txNext,
    hbits, hnext, bitsLeft_of_more c hmore, phaseTicks, phaseTicks, symbolTicks_cons]
  omega

theorem Sending.loadData (h : Sending c s) (hwf : c.WF) (hrem : s.txRemaining = 0)
    (hnext : s.txNext = .data) :
    Sending c (loadData c s) ∧ ticksLeft c (loadData c s) + 1 = ticksLeft c s := by
  have hmore := h.bitFollows (by simp [hnext])
  refine ⟨{ h with bitFollows := fun hne => absurd rfl hne }, ?_⟩
  rw [ticksLeft_of_no_ticks hrem, ticksLeft, loadData_txRemaining, pulseLengthForBit_toNat c hwf,
    loadData_txNext, hnext, bitsLeft_of_more c hmore, phaseTicks, phaseTicks]
  omega

/-- A tick of a transmission either takes one off the ticks that are left, or is the last one and
stops. -/
theorem Sending.txTickStep (h : Sending c s) (hwf : c.WF) :
    (Sending c (txTickStep c s) ∧ ticksLeft c (txTickStep c s) + 1 = ticksLeft c s) ∨
      (ticksLeft c s = 1 ∧ txTickStep c s = txStop s) := by
  by_cases hrem : s.txRemaining = 0
  · rw [txTickStep_of_no_ticks c s h.timer hrem]
    cases hnext : s.txNext with
    | start =>
      have hmore := h.bitFollows (by simp [hnext])
      rw [loadPhase_of_start c s (h.not_done hmore) hnext]
      exact .inl (h.loadStart hwf hrem hnext)
    | data =>
      have hmore := h.bitFollows (by simp [hnext])
      rw [loadPhase_of_data c s (h.not_done hmore) hnext]
      exact .inl (h.loadData hwf hrem hnext)
    | pause =>
      by_cases hmore : s.txCursor.toNat < s.txBitLen.toNat
      · rw [loadPhase_of_pause c s (h.not_done hmore) hnext]
        exact .inl (h.loadPause hwf hrem hnext hmore)
      · have hend := Nat.not_lt.1 hmore
        refine .inr ⟨?_, loadPhase_of_done c s (txDone_of_end hend)⟩
        rw [ticksLeft_of_no_ticks hrem, hnext, bitsLeft_of_end hend]
        rfl
  · rw [txTickStep_of_ticks_left c s h.timer hrem]
    exact .inl (h.countdown hrem)

/-! ### The whole transmission -/

/-- Until the last tick the block transmits. -/
theorem Sending.runOps_txrun (h : Sending c s) (hwf : c.WF) {n : Nat} (hn : n < ticksLeft c s) :
    ∃ t, runOps c (txrunOps n) s = .next t ∧ Sending c t ∧ ticksLeft c t + n = ticksLeft c s := by
  induction n generalizing s with
  | zero => exact ⟨s, rfl, h, rfl⟩
  | succ n ih =>
    have htick := execOn_txTick c s h.running
    rcases h.txTickStep hwf with ⟨hsending, hleft⟩ | ⟨hlast, -⟩
    · obtain ⟨t, hrun, ht, hcount⟩ := ih (hsending.respond [Instr.opcode .txTick] [])
        (by rw [ticksLeft_respond]; omega)
      rw [ticksLeft_respond] at hcount
      exact ⟨t, (runOps_cons_of htick).trans hrun, ht, by omega⟩
    · omega

/-- The last tick stops. -/
theorem Sending.runOps_txrun_last (h : Sending c s) (hwf : c.WF) :
    ∃ t, runOps c (txrunOps (ticksLeft c s)) s = .next t ∧ t.transmitting = false ∧
      t.carrierOn = false ∧ t.txEnableOut = false := by
  have hpos : 1 ≤ ticksLeft c s := (phaseTicks_pos c _ _).trans (Nat.le_add_left _ _)
  obtain ⟨n, hn⟩ : ∃ n, ticksLeft c s = n + 1 := ⟨ticksLeft c s - 1, by omega⟩
  obtain ⟨t, hrun, ht, hcount⟩ := h.runOps_txrun hwf (n := n) (by omega)
  have htick := execOn_txTick c t ht.running
  rcases ht.txTickStep hwf with ⟨-, hleft⟩ | ⟨-, hstop⟩
  · have hmore : 1 ≤ ticksLeft c (Machine.txTickStep c t) :=
      (phaseTicks_pos c _ _).trans (Nat.le_add_left _ _)
    omega
  · obtain ⟨hcarrier, henable, -, htransmitting, -⟩ :=
      txStop_stopped t [Instr.opcode .txTick] []
    rw [hstop] at htick
    refine ⟨_, ?_, htransmitting, hcarrier, henable⟩
    rw [hn, txrunOps, List.replicate_succ']
    exact runOps_append_of hrun ((runOps_one c _ t).trans htick)

/-- The block that an accepted SEND leaves is at the start of the frame's bits. -/
theorem bitsLeft_sendAccept (hwf : c.WF) {bytes : List Byte}
    (hlen : bytes.length < c.maxWordlen - 1) :
    bitsLeft (sendAccept c bytes s) = frameBits c bytes := by
  obtain ⟨⟨-, hmax⟩, -⟩ := hwf
  have hbitLen : (sendAccept c bytes s).txBitLen.toNat = 9 * bytes.length + 9 :=
    frameBitLen_toNat _ (by omega)
  have hcursor : (sendAccept c bytes s).txCursor.toNat = 0 := rfl
  have hwords (j : Nat) (hj : j < bytes.length + 1) :
      bufRead (sendAccept c bytes s).txWords j = (frameWords c bytes).getD j 0 := by
    have hj' : j < (frameWords c bytes).length := by rwa [frameWords_length]
    rw [sendAccept_txWords, bufRead_bufWriteAll, dif_pos ⟨Nat.zero_le j, by omega⟩,
      List.getD_eq_getElem _ _ hj']
    rfl
  rw [bitsLeft, frameBits, hbitLen, hcursor, Nat.sub_zero, ← List.range_eq_range']
  refine List.map_congr_left fun k hk => ?_
  have hk : k < 9 * bytes.length + 9 := List.mem_range.1 hk
  rw [bufferBit, frameBit, hwords (k / 9) (by omega)]

theorem sendAccept_sending (hwf : c.WF) (hfault : s.fault = none) {bytes : List Byte}
    (hlen : bytes.length < c.maxWordlen - 1) : Sending c (sendAccept c bytes s) := by
  obtain ⟨⟨-, hmax⟩, -⟩ := hwf
  have hbitLen : (sendAccept c bytes s).txBitLen.toNat = 9 * bytes.length + 9 :=
    frameBitLen_toNat _ (by omega)
  have hcursor : (sendAccept c bytes s).txCursor.toNat = 0 := rfl
  exact ⟨hfault, rfl, rfl, rfl, by omega, fun _ => by omega⟩

theorem ticksLeft_sendAccept (hwf : c.WF) {bytes : List Byte}
    (hlen : bytes.length < c.maxWordlen - 1) :
    ticksLeft c (sendAccept c bytes s) = transmissionTicks c bytes := by
  rw [ticksLeft, bitsLeft_sendAccept hwf hlen]
  exact Nat.zero_add _

/-- An accepted SEND starts a transmission of T_total ticks. -/
theorem send_starts (hwf : c.WF) {bytes : List Byte} {u : State} (hconf : s.txConfigured = true)
    (hidle : s.transmitting = false) (hlen : bytes.length < c.maxWordlen - 1)
    (h : execOn c (.send bytes) s = .next u) :
    Sending c u ∧ ticksLeft c u = transmissionTicks c bytes := by
  obtain ⟨hfault, ⟨hunconf, -⟩ | ⟨-, hrej, -⟩ | ⟨-, -, -, rfl⟩⟩ := execOn_leaves c _ s u h
  · simp [hconf] at hunconf
  · exact absurd hrej (not_busy_or_long hidle hlen)
  · exact ⟨(sendAccept_sending hwf hfault hlen).respond _ _,
      (ticksLeft_respond c _ _ _).trans (ticksLeft_sendAccept hwf hlen)⟩

/-- Settles O33: every tick of a transmission takes one off the ticks that are left, which are
T_total after an accepted SEND, until the one that is left is the stop. -/
theorem transmissionLastsItsTicks : Obligations.TransmissionLastsItsTicks := by
  unfold Obligations.TransmissionLastsItsTicks
  intro c bytes s u hwf hconf hidle hlen hsend
  obtain ⟨hsending, hticks⟩ := send_starts hwf hconf hidle hlen hsend
  rw [← hticks]
  refine ⟨fun n hn => ?_, hsending.runOps_txrun_last hwf⟩
  obtain ⟨t, hrun, ht, -⟩ := hsending.runOps_txrun hwf hn
  exact ⟨t, hrun, ht.transmitting, ht.txEnable⟩

end Sys2Proof.Machine
end

section
/-! A frame of well-spaced bursts (spec/95_test_vectors.md section 2.3), settled. -/

namespace Sys2Proof.Machine

variable {c : Cfg} {s t : State}

/-! ### One burst and its LOOP -/

/-- A block that is ready for the next burst. -/
structure Listening (s : State) : Prop where
  running : s.fault = none
  configured : s.rxConfigured = true
  enabled : s.rxEnabled = true
  edgeCnt : s.edgeCnt = 0
  bitRx : s.bitRx = false
  streamRx : s.streamRx = false

/-- A block that is ready for the next burst or for the frame end: a bit window has ended. -/
structure BurstTaken (c : Cfg) (s : State) : Prop extends Listening s where
  btoRun : s.btoRun = false
  ftoRun : s.ftoRun = true
  ftoCnt : s.ftoCnt = c.tFrame - c.tBit

/-- What the bit step reads of the state is the same in `t` as in `s`. -/
def SameDecode (s t : State) : Prop := samePart s t .perFrame ∧ samePart s t .rxBuffer

theorem SameDecode.of_frame {parts : List Part} (h : UnchangedBut parts s t)
    (hperFrame : .perFrame ∉ parts) (hrxBuffer : .rxBuffer ∉ parts) : SameDecode s t :=
  ⟨h _ hperFrame, h _ hrxBuffer⟩

/-- The LOOP after a bit window takes the latched count. -/
theorem WindowEnded.loop {n : Nat} {u : State} (h : Listening s) (ht : WindowEnded c n s t)
    (hu : bitCases c t.pulseCnt (clearBit t) = .ok u) :
    ∃ v, execOn c .loop t = .next v ∧ BurstTaken c v ∧ SameDecode u v := by
  have hkept := ht.frame
  have hfault : t.fault = none := (hkept .faultReg (by decide)).trans h.running
  have hconf : t.rxConfigured = true := (hkept .setup (by decide)).1.trans h.configured
  have hstream : t.streamRx = false := (hkept .streamFlag (by decide)).trans h.streamRx
  have hloop : loopStep c t = .ok u := (loopStep_bit c t hstream ht.bitRx).trans hu
  have hbit : bitBranch c t = .ok u := by rwa [bitBranch, if_pos ht.bitRx]
  obtain ⟨hstream', hbitRx⟩ := bitBranch_clears_bitRx c t u hbit
  have hframe := bitBranch_frame hbit
  obtain ⟨hconf', -⟩ := hframe .setup (by decide)
  obtain ⟨hedge, hbto, -, hfto, hftoCnt⟩ := hframe .capture (by decide)
  refine ⟨_, execOn_loop_of c t u hfault hconf hloop, ?_, samePart_respond _ _ u _,
    samePart_respond _ _ u _⟩
  exact {
    running := (hframe .faultReg (by decide)).trans hfault
    configured := hconf'.trans hconf
    enabled := (hframe .enabled (by decide)).trans
      ((hkept .enabled (by decide)).trans h.enabled)
    edgeCnt := hedge.trans ht.edgeCnt
    bitRx := hbitRx
    streamRx := hstream'.trans hstream
    btoRun := hbto.trans ht.btoRun
    ftoRun := hfto.trans ht.ftoRun
    ftoCnt := hftoCnt.trans ht.ftoCnt }

/-- A burst of `n` edges hands the count `n` to the bit step, which meets the decode state that the
burst found. -/
theorem runOps_burst (hwf : c.WF) (h : Listening s) {n : Nat} (hpos : 1 ≤ n) (hn : n < 65536) :
    ∃ (cnt : Count) (v : State), cnt.toNat = n ∧ SameDecode s v ∧
      ∀ u, bitCases c cnt v = .ok u →
        ∃ t, runOps c (burstOps c n) s = .next t ∧ BurstTaken c t ∧ SameDecode u t := by
  obtain ⟨t, hwindow, ht⟩ := runOps_rxbit hwf h.running h.enabled h.edgeCnt hpos hn
  refine ⟨t.pulseCnt, clearBit t, ht.pulseCnt,
    .of_frame (ht.frame.trans ((clearBit_frame t).mono (by decide))) (by decide) (by decide),
    fun u hu => ?_⟩
  obtain ⟨v, hloop, hv⟩ := ht.loop h hu
  exact ⟨v, runOps_append_of hwindow ((runOps_one c _ t).trans hloop), hv⟩

/-! ### The bits of a frame (R69) -/

/-- The bytes a frame carries: the payload, and its CRC last. -/
def frameBytes (c : Cfg) (bytes : List Byte) : List Byte := bytes ++ [c.crc8 bytes]

/-- Byte `j` of a frame. -/
def frameByte (c : Cfg) (bytes : List Byte) (j : Nat) : Byte := (frameBytes c bytes).getD j 0

@[simp] theorem frameBytes_length (c : Cfg) (bytes : List Byte) :
    (frameBytes c bytes).length = bytes.length + 1 := by
  simp [frameBytes]

theorem frameBit_eq {bytes : List Byte} {k : Nat} (h : k < 9 * (bytes.length + 1)) :
    frameBit c bytes k = (pack9 (frameByte c bytes (k / 9))).getLsbD (k % 9) := by
  have hlen : k / 9 < (frameBytes c bytes).length := by
    rw [frameBytes_length]
    omega
  have hwords : frameWords c bytes = (frameBytes c bytes).map pack9 := by
    rw [frameWords, crc8_whole, frameBytes]
  rw [frameBit, frameByte, hwords, List.getD_eq_getElem _ _ (by rwa [List.length_map]),
    List.getElem_map, List.getD_eq_getElem _ _ hlen]

theorem pack9_payload_bit (b : Byte) {p : Nat} (h : p < 8) :
    (pack9 b).getLsbD p = b.getLsbD p := by
  rw [pack9_eq_append, BitVec.getLsbD_append, if_pos h]

theorem pack9_parity_bit (b : Byte) : (pack9 b).getLsbD 8 = parityOdd b := by
  rw [pack9_eq_append, BitVec.getLsbD_append, if_neg (Nat.lt_irrefl 8)]
  simp

/-! ### The decode state in the middle of a frame -/

/-- The decode state after the start bit and the first `k` bits of a frame: the Words before the
current one are whole, and the current one holds the bits it has got. -/
structure Assembled (c : Cfg) (bytes : List Byte) (threshold : Count) (k : Nat) (s : State) :
    Prop where
  threshold_eq : s.threshold = threshold
  startFlag : s.startFlag = false
  valid : s.valid = true
  wordIdx : s.wordIdx.toNat = k / 9
  bitIdx : s.bitIdx.toNat = k % 9
  words : ∀ j < k / 9, bufRead s.rxWords j = frameByte c bytes j
  bits : ∀ p, (currentWord s).getLsbD p =
    (decide (p < k % 9) && (frameByte c bytes (k / 9)).getLsbD p)

theorem SameDecode.currentWord (h : SameDecode s t) : currentWord t = currentWord s := by
  obtain ⟨⟨-, -, hbitIdx, hwordIdx, -⟩, hwords⟩ := h
  rw [Machine.currentWord, Machine.currentWord, hbitIdx, hwordIdx, hwords]

theorem Assembled.of_sameDecode {bytes : List Byte} {threshold : Count} {k : Nat}
    (h : Assembled c bytes threshold k s) (hsame : SameDecode s t) :
    Assembled c bytes threshold k t := by
  have hword := hsame.currentWord
  obtain ⟨⟨hthreshold, hstart, hbitIdx, hwordIdx, hvalid⟩, hwords⟩ := hsame
  exact {
    threshold_eq := hthreshold.trans h.threshold_eq
    startFlag := hstart.trans h.startFlag
    valid := hvalid.trans h.valid
    wordIdx := hwordIdx ▸ h.wordIdx
    bitIdx := hbitIdx ▸ h.bitIdx
    words := fun j hj => (hwords j).trans (h.words j hj)
    bits := hword ▸ h.bits }

/-- A start bit loads the threshold and leaves an empty first Word. -/
theorem assembled_loadThreshold (bytes : List Byte) (cnt : Count) (h : PerFrameReset s) :
    Assembled c bytes (thresholdOf c cnt) 0 (loadThreshold c cnt s) := by
  obtain ⟨-, hbitIdx, hwordIdx, -, hvalid⟩ := h
  have hempty : currentWord (loadThreshold c cnt s) = 0 := if_pos hbitIdx
  exact {
    threshold_eq := rfl
    startFlag := rfl
    valid := hvalid
    wordIdx := congrArg BitVec.toNat hwordIdx
    bitIdx := congrArg BitVec.toNat hbitIdx
    words := fun j hj => absurd hj (Nat.not_lt_zero j)
    bits := fun p => by simp [hempty] }

/-- The Word is whole at the parity position. -/
theorem Assembled.word_whole {bytes : List Byte} {threshold : Count} {k : Nat}
    (h : Assembled c bytes threshold k s) (hpos : k % 9 = 8) :
    currentWord s = frameByte c bytes (k / 9) := by
  refine BitVec.eq_of_getLsbD_eq fun p hp => ?_
  rw [h.bits, hpos, decide_eq_true hp, Bool.true_and]

theorem Assembled.parityBit {bytes : List Byte} {threshold : Count} {k : Nat} (hwf : c.WF)
    (h : Assembled c bytes threshold k s) (hpos : k % 9 = 8) (hroom : k / 9 + 1 < c.maxWordlen) :
    Assembled c bytes threshold (k + 1)
      (parityBit c (parityOdd (frameByte c bytes (k / 9))) s) := by
  have hword := h.word_whole hpos
  have hdiv : (k + 1) / 9 = k / 9 + 1 := by omega
  have hmod : (k + 1) % 9 = 0 := by omega
  have hstored : bufRead s.rxWords (k / 9) = frameByte c bytes (k / 9) := by
    have hne : s.bitIdx ≠ 0 := fun hz => by
      have := h.bitIdx
      simp [hz, hpos] at this
    rwa [currentWord, if_neg hne, h.wordIdx] at hword
  exact {
    threshold_eq := h.threshold_eq
    startFlag := h.startFlag
    valid := by rw [parityBit_valid, h.valid, hword, Bool.true_and, beq_self_eq_true]
    wordIdx := by
      rw [parityBit_wordIdx_toNat c hwf, h.wordIdx, if_neg (by omega), hdiv]
    bitIdx := hmod.symm
    words := fun j hj => by
      rcases Nat.lt_succ_iff_lt_or_eq.1 (hdiv ▸ hj) with hlt | rfl
      · exact h.words j hlt
      · exact hstored
    bits := fun p => by
      have hempty : currentWord
          (Machine.parityBit c (parityOdd (frameByte c bytes (k / 9))) s) = 0 := rfl
      simp [hempty, hmod] }

theorem placeBit_getLsbD (word : Byte) (b : Bool) (i : BitIndex) {p : Nat} (hp : p < 8) :
    (placeBit word b i).getLsbD p = (word.getLsbD p || (decide (p = i.toNat) && b)) := by
  rw [placeBit, BitVec.getLsbD_or, BitVec.getLsbD_shiftLeft, BitVec.getLsbD_setWidth,
    BitVec.getLsbD_ofBool]
  rcases Nat.lt_trichotomy p i.toNat with hlt | heq | hgt
  · simp [hlt, hlt.ne]
  · simp [← heq, hp]
  · have hne : p - i.toNat ≠ 0 := by omega
    simp [hgt.ne', hne]

/-- The payload bit joins the bits before it in the current Word. -/
theorem currentWord_dataBit {b : Bool} (hpos : s.bitIdx.toNat < 8)
    (hidx : s.wordIdx.toNat < c.maxWordlen) :
    currentWord (dataBit c b s) = placeBit (currentWord s) b s.bitIdx := by
  have hne : (dataBit c b s).bitIdx ≠ 0 := by
    rw [dataBit_bitIdx]
    bv_omega
  rw [currentWord, if_neg hne, dataBit_wordIdx_of_lt c b s hidx]
  exact dataBit_word c b s

theorem Assembled.dataBit {bytes : List Byte} {threshold : Count} {k : Nat}
    (h : Assembled c bytes threshold k s) (hpos : k % 9 < 8) (hroom : k / 9 < c.maxWordlen) :
    Assembled c bytes threshold (k + 1)
      (dataBit c ((frameByte c bytes (k / 9)).getLsbD (k % 9)) s) := by
  have hdiv : (k + 1) / 9 = k / 9 := by omega
  have hmod : (k + 1) % 9 = k % 9 + 1 := by omega
  have hidx := h.wordIdx
  have hbitIdx := h.bitIdx
  have hkept := dataBit_wordIdx_of_lt c ((frameByte c bytes (k / 9)).getLsbD (k % 9)) s
    (hidx ▸ hroom)
  exact {
    threshold_eq := h.threshold_eq
    startFlag := h.startFlag
    valid := h.valid
    wordIdx := by rw [hkept, hidx, hdiv]
    bitIdx := by
      rw [dataBit_bitIdx, hmod]
      bv_omega
    words := fun j hj => by
      rw [hdiv] at hj
      rw [dataBit_other_words c _ s j (by omega)]
      exact h.words j hj
    bits := fun p => by
      rw [currentWord_dataBit (by omega) (by omega), hdiv, hmod]
      rcases Nat.lt_or_ge p 8 with hp | hp
      · rw [placeBit_getLsbD _ _ _ hp, h.bits, hbitIdx]
        rcases Nat.lt_trichotomy p (k % 9) with hlt | rfl | hgt
        · simp [hlt, hlt.ne, Nat.lt_succ_of_lt hlt]
        · simp
        · simp [hgt.ne', hgt.not_gt, Nat.not_lt.2 hgt]
      · rw [BitVec.getLsbD_of_ge _ _ hp, BitVec.getLsbD_of_ge _ _ hp, Bool.and_false] }

/-- The bit step takes bit `k` of the frame. -/
theorem Assembled.bitCases {bytes : List Byte} {threshold cnt : Count} {k : Nat} (hwf : c.WF)
    (h : Assembled c bytes threshold k s) (hlen : bytes.length < c.maxWordlen - 1)
    (hk : k < 9 * (bytes.length + 1)) (hmin : c.bitMinLen ≤ cnt.toNat)
    (hclass : classify cnt threshold = frameBit c bytes k) :
    ∃ u, Machine.bitCases c cnt s = .ok u ∧ Assembled c bytes threshold (k + 1) u := by
  have hbitIdx := h.bitIdx
  have hroom : k / 9 + 1 < c.maxWordlen := by omega
  have hstep := bitCases_normal c cnt s h.startFlag hmin (by rw [h.wordIdx]; omega)
  rw [h.threshold_eq, hclass, frameBit_eq hk] at hstep
  by_cases hpos : k % 9 = 8
  · rw [hpos, pack9_parity_bit, assembleBit_parity c _ s (by bv_omega)] at hstep
    exact ⟨_, hstep, h.parityBit hwf hpos hroom⟩
  · rw [pack9_payload_bit _ (by omega), assembleBit_data c _ s (by bv_omega)] at hstep
    exact ⟨_, hstep, h.dataBit (by omega) (by omega)⟩

/-! ### The whole frame -/

/-- The widths of a well-spaced frame's bursts: on the right sides of the minima and of the
threshold that the start burst loads (R181). -/
structure WellSpaced (c : Cfg) (startLen oneLen zeroLen : Nat) : Prop where
  startLt : startLen < 65536
  startMin : c.startbitMinLen ≤ startLen
  startBitMin : c.bitMinLen ≤ startLen
  onePos : 1 ≤ oneLen
  oneMin : c.bitMinLen ≤ oneLen
  oneBelow : oneLen < startLen * c.bitOneDivDen / c.bitOneDivNum
  zeroAbove : startLen * c.bitOneDivDen / c.bitOneDivNum ≤ zeroLen
  zeroLt : zeroLen < 65536

variable {startLen oneLen zeroLen : Nat} {bytes : List Byte}

theorem WellSpaced.start_pos (h : WellSpaced c startLen oneLen zeroLen) : 1 ≤ startLen := by
  rcases Nat.eq_zero_or_pos startLen with rfl | hpos
  · have := h.oneBelow
    simp at this
  · exact hpos

/-- A burst for a bit can be latched, is no noise, and classifies as the bit. -/
theorem WellSpaced.burst (h : WellSpaced c startLen oneLen zeroLen) (b : Bool) :
    1 ≤ (if b then oneLen else zeroLen) ∧ (if b then oneLen else zeroLen) < 65536 ∧
      c.bitMinLen ≤ (if b then oneLen else zeroLen) ∧
      decide ((if b then oneLen else zeroLen) < startLen * c.bitOneDivDen / c.bitOneDivNum) =
        b := by
  obtain ⟨-, -, -, hpos, hmin, hbelow, habove, hlt⟩ := h
  cases b <;> simp <;> omega

/-- The start burst, from the start of a frame. -/
theorem runOps_startBurst (hwf : c.WF) (hw : WellSpaced c startLen oneLen zeroLen)
    (h : Listening s) (hreset : PerFrameReset s) :
    ∃ (threshold : Count) (t : State), runOps c (burstOps c startLen) s = .next t ∧
      threshold.toNat = startLen * c.bitOneDivDen / c.bitOneDivNum ∧ BurstTaken c t ∧
      Assembled c bytes threshold 0 t := by
  obtain ⟨cnt, v, hcnt, hsame, hburst⟩ := runOps_burst hwf h hw.start_pos hw.startLt
  have hreset' : PerFrameReset v := by
    obtain ⟨hthreshold, hbitIdx, hwordIdx, hstart, hvalid⟩ := hreset
    obtain ⟨⟨hthreshold', hstart', hbitIdx', hwordIdx', hvalid'⟩, -⟩ := hsame
    exact ⟨hthreshold'.trans hthreshold, hbitIdx'.trans hbitIdx, hwordIdx'.trans hwordIdx,
      hstart'.trans hstart, hvalid'.trans hvalid⟩
  obtain ⟨-, -, -, hstart, -⟩ := id hreset'
  obtain ⟨t, hrun, ht, hload⟩ := hburst _
    (bitCases_startBit c cnt v hstart (hcnt ▸ hw.startBitMin) (hcnt ▸ hw.startMin))
  exact ⟨thresholdOf c cnt, t, hrun, by rw [thresholdOf_toNat c hwf, hcnt], ht,
    (assembled_loadThreshold bytes cnt hreset').of_sameDecode hload⟩

/-- The bursts of the first `n` bits of a frame, after the start burst. -/
theorem runOps_bitBursts (hwf : c.WF) (hw : WellSpaced c startLen oneLen zeroLen)
    (hlen : bytes.length < c.maxWordlen - 1) {threshold : Count}
    (hthreshold : threshold.toNat = startLen * c.bitOneDivDen / c.bitOneDivNum)
    (hs : BurstTaken c s) (h : Assembled c bytes threshold 0 s) {n : Nat}
    (hn : n ≤ 9 * (bytes.length + 1)) :
    ∃ t, runOps c
        (((List.range n).map (frameBit c bytes)).flatMap fun b =>
          burstOps c (if b then oneLen else zeroLen)) s = .next t ∧
      BurstTaken c t ∧ Assembled c bytes threshold n t := by
  induction n with
  | zero => exact ⟨s, rfl, hs, h⟩
  | succ n ih =>
    obtain ⟨t, hrun, ht, hassembled⟩ := ih (by omega)
    obtain ⟨hpos, hlt, hmin, hclass⟩ := hw.burst (frameBit c bytes n)
    obtain ⟨cnt, v, hcnt, hsame, hburst⟩ := runOps_burst hwf ht.toListening hpos hlt
    rw [← hthreshold, ← hcnt] at hclass
    obtain ⟨u, hu, hassembled'⟩ := (hassembled.of_sameDecode hsame).bitCases hwf hlen hn
      (hcnt ▸ hmin) hclass
    obtain ⟨w, hrun', hw', hsame'⟩ := hburst u hu
    refine ⟨w, ?_, hw', hassembled'.of_sameDecode hsame'⟩
    rw [List.range_succ, List.map_append, List.flatMap_append]
    exact runOps_append_of hrun (by simpa using hrun')

/-- A buffer whose first elements are a list's reads as the list. -/
theorem bufReadAll_eq {w : Nat} {b : WordBuf w} {vs : List (BitVec w)}
    (h : ∀ j < vs.length, bufRead b j = vs.getD j 0) : bufReadAll b vs.length = vs := by
  refine List.ext_getElem (bufReadAll_length b _) fun j _ hj => ?_
  rw [bufReadAll_getElem, h j hj, List.getD_eq_getElem _ _ hj]

/-- A frame of whole Words whose last is the CRC of the ones before it matches (R101). -/
theorem crcMatches_of_words {rx : WordBuf 8}
    (h : ∀ j < bytes.length + 1, bufRead rx j = frameByte c bytes j) :
    crcMatches c rx (bytes.length + 1) = true := by
  have hpayload : bufReadAll rx bytes.length = bytes := bufReadAll_eq fun j hj => by
    rw [h j (by omega), frameByte, frameBytes, List.getD_append _ _ _ _ hj]
  have hcrc : bufRead rx bytes.length = c.crc8 bytes := by
    rw [h _ (Nat.lt_succ_self _), frameByte, frameBytes]
    simp
  rw [crcMatches_iff, Nat.add_sub_cancel, hpayload, hcrc]

/-- What READ answers after a frame close that publishes (R101, R108). -/
theorem frameResponse_closed (h : s.wordIdx ≠ 0) :
    frameResponse (closed c s) =
      [1, s.wordIdx, boolByte (s.valid && crcMatches c s.rxWords s.wordIdx.toNat)] ++
        bufReadAll s.rxWords s.wordIdx.toNat := by
  have hcopy : bufReadAll (publish c (clearStream s)).pubWords s.wordIdx.toNat =
      bufReadAll s.rxWords s.wordIdx.toNat :=
    List.map_congr_left fun k hk =>
      (publish_pubWords_read c (clearStream s) k).trans (if_pos (List.mem_range.1 hk))
  rw [closed_of_words c s h, ← hcopy]
  rfl

/-- A LOOP and a READ at the end of a frame of at least one Word. -/
theorem runOps_loop_read (hfault : s.fault = none) (hconf : s.rxConfigured = true)
    (hstream : s.streamRx = true) (hbit : s.bitRx = false) (hwords : s.wordIdx ≠ 0)
    (hidx : s.wordIdx.toNat ≤ c.maxWordlen) :
    ∃ t, runOps c [.loop, .read] s = .next t ∧
      t.response = some (frameResponse (closed c s)) := by
  have hloop := execOn_loop_of c s _ hfault hconf (loopStep_frame c s hstream hbit hidx)
  obtain ⟨hready, hpubLen⟩ :
      (closed c s).dataReady = true ∧ (closed c s).pubLen = s.wordIdx := by
    rw [closed_of_words c s hwords]
    exact ⟨rfl, rfl⟩
  have hread := execOn_read_ready c (respond [Instr.opcode .loop] [] (closed c s))
    ((closed_fault c s).trans hfault) ((closed_rxConfigured c s).trans hconf) hready
    (hpubLen ▸ hidx)
  exact ⟨_, (runOps_cons_of hloop).trans ((runOps_one c _ _).trans hread), rfl⟩

/-- The frame end, a LOOP and a READ, with every bit of the frame assembled. -/
theorem runOps_frameEnd (hwf : c.WF) (hlen : bytes.length < c.maxWordlen - 1) {threshold : Count}
    (hs : BurstTaken c s) (h : Assembled c bytes threshold (9 * (bytes.length + 1)) s) :
    ∃ t, runOps c (endframeOps c ++ [.loop, .read]) s = .next t ∧
      t.response = some ([0x01, BitVec.ofNat 8 (bytes.length + 1), 0x01] ++ bytes ++
        [c.crc8 bytes]) := by
  obtain ⟨⟨-, hmax⟩, -⟩ := id hwf
  obtain ⟨u, hend, hframe, hstream, -⟩ :=
    runOps_endframe hwf hs.running hs.btoRun hs.ftoRun hs.ftoCnt
  have hu : Assembled c bytes threshold (9 * (bytes.length + 1)) u :=
    h.of_sameDecode (.of_frame hframe (by decide) (by decide))
  have hcount : 9 * (bytes.length + 1) / 9 = bytes.length + 1 := by omega
  have hidx : u.wordIdx.toNat = bytes.length + 1 := hu.wordIdx.trans hcount
  have hwords : ∀ j < bytes.length + 1, bufRead u.rxWords j = frameByte c bytes j := fun j hj =>
    hu.words j (by omega)
  have hlenWord : u.wordIdx = BitVec.ofNat 8 (bytes.length + 1) := by bv_omega
  have hne : u.wordIdx ≠ 0 := fun hz => by simp [hz] at hidx
  obtain ⟨t, hrun, hresponse⟩ := runOps_loop_read (c := c)
    ((hframe .faultReg (by decide)).trans hs.running)
    ((hframe .setup (by decide)).1.trans hs.configured) hstream
    ((hframe .bitFlag (by decide)).trans hs.bitRx) hne (by omega)
  refine ⟨t, runOps_append_of hend hrun, ?_⟩
  have hread : bufReadAll u.rxWords (bytes.length + 1) = frameBytes c bytes := by
    rw [← frameBytes_length c bytes]
    exact bufReadAll_eq fun j hj => hwords j (by rwa [frameBytes_length] at hj)
  rw [hresponse, frameResponse_closed hne, hidx, hu.valid, crcMatches_of_words hwords, hlenWord,
    hread]
  rfl

/-- Settles O26: each burst is latched as its width and taken by the LOOP after it, so the Words of
the frame are in the buffer at the frame end, and their CRC matches. -/
theorem wellSpacedFrameIsReceivedAsSent : Obligations.WellSpacedFrameIsReceivedAsSent := by
  unfold Obligations.WellSpacedFrameIsReceivedAsSent
  intro c s startLen oneLen zeroLen bytes hwf hlen hstartLt hstartMin hstartBitMin honePos honeMin
    honeBelow hzeroAbove hzeroLt hfault hconf henabled hedge hbit hstream hreset
  have hw : WellSpaced c startLen oneLen zeroLen :=
    ⟨hstartLt, hstartMin, hstartBitMin, honePos, honeMin, honeBelow, hzeroAbove, hzeroLt⟩
  have hlistening : Listening s := ⟨hfault, hconf, henabled, hedge, hbit, hstream⟩
  obtain ⟨threshold, t, hstart, hthreshold, ht, hassembled⟩ :=
    runOps_startBurst hwf hw hlistening hreset
  obtain ⟨u, hbits, hu, hassembled'⟩ :=
    runOps_bitBursts hwf hw hlen hthreshold ht hassembled le_rfl
  obtain ⟨v, hend, hresponse⟩ := runOps_frameEnd hwf hlen hu hassembled'
  exact ⟨v, runOps_append_of (runOps_append_of hstart hbits) hend, hresponse⟩

end Sys2Proof.Machine
end
